-- ==== Sys2Proof/Word.lean ====
section
/-! DEFINITION. The word types of the block (10_state.md rule R40): bytes, 16-bit and 32-bit words.
Arithmetic on them stands in Machine/Operands.lean and Machine/Crc.lean. -/

namespace Sys2Proof

/-- u8: frame bytes, unit ids, function codes, pin and port identifiers. -/
abbrev Byte := BitVec 8

/-- u16: checksums, register addresses, register values. -/
abbrev Half := BitVec 16

/-- u32 and i32: baud rates, capacities, guard times, decoded values (two's complement). -/
abbrev Word := BitVec 32

end Sys2Proof
end

