-- ==== Sys2Proof/Config.lean ====
section
/-! DEFINITION. What is fixed for the machine: the named parameters of 00_scope.md rules R6 and R7, and the free
values, which are constants with no body, so that no proof can see what they are. -/

namespace Sys2Proof

/-- `OUTCOME.TAG` (10_state.md rule R34): the five kinds of outcome. Codes 5, 6 and 7 are never produced. -/
inductive OutcomeTag where
  | value | noResponse | checksumError | unsupportedFunction | undecodableFunction
deriving DecidableEq, Repr, Inhabited

/-- What the channel does with a byte that arrives when RXQ holds its capacity (93_implementation_defined.md U7:
any value of loss). The environment decides. -/
inductive Loss where
  /-- The new byte is lost. -/
  | dropNew
  /-- The queued byte at this position is lost and the new one queued; past the end nothing is lost. -/
  | dropOld (index : Nat)
  /-- Nothing is lost. -/
  | keep
deriving DecidableEq, Repr, Inhabited

/-- The two kinds of environment step (20_memory.md rule R72). -/
inductive ChannelEvent where
  /-- (a) One byte of any value comes to the tail of RXQ; `onFull` matters only at a full queue. -/
  | arrive (byte : Byte) (onFull : Loss)
  /-- (b) The head of TXPEND moves to the end of TXLINE; nothing happens when TXPEND is empty. -/
  | drain
deriving DecidableEq, Repr, Inhabited

/-- What the environment does at one interaction point: the steps it takes, in order, and, where the point is the
wait of a `ser_read_bytes`, how many bytes beyond the obligatory ones the read returns (20_memory.md rule R68). -/
structure Slot where
  events : List ChannelEvent
  extra : Nat
deriving DecidableEq, Repr, Inhabited

/-- A slot in which nothing happens. -/
def Slot.quiet : Slot := ⟨[], 0⟩

namespace Config

/-! ## Parameters the source fixes (00_scope.md rule R6) -/

/-- Lower bound of `CFG.BAUD`, inclusive. -/
def minBaud : Word := 4800
/-- Exclusive lower bound of `CFG.RX_CAP`. -/
def minRxCapExcl : Word := 128
/-- Polls of the buffered count per response wait. -/
def pollCount : Nat := 10
/-- Time-units waited between polls. -/
def pollInterval : Nat := 10
/-- A response is read when the count is strictly greater than this. -/
def rxThreshold : Nat := 5
/-- Most bytes one response read returns; the size of RXB. -/
abbrev readMax : Nat := 16
/-- Transmit/await cycles per call, in all. -/
def maxAttempts : Nat := 3
/-- Character widths of the guard time. -/
def guardChars : Nat := 4
/-- Bytes of a read request frame. -/
abbrev readReqLen : Nat := 8
/-- Bytes of a write request frame, the longer of the two kinds; the size of TXF. -/
abbrev writeReqLen : Nat := 11
/-- Registers per request. -/
def quantity : Half := 1
/-- Byte-count field of a write request. -/
def writeByteCount : Byte := 2
/-- Function code read-holding. -/
def fcReadHolding : Byte := 3
/-- Function code read-input. -/
def fcReadInput : Byte := 4
/-- Function code of a write. -/
def fcWrite : Byte := 16
/-- The reflected polynomial constant. -/
def crcPoly : Half := 0xA001
/-- The initial checksum value. -/
def crcSeed : Half := 0xFFFF
/-- Entries of the checksum table. -/
def crcTableSize : Nat := 256

/-! ## Parameters the spec decides (00_scope.md rule R7) -/

/-- Bit times of one character, 8N1 with its start bit (44_transaction_manager.md rule R212). -/
def charBits : Nat := 10
/-- `GUARD_BITS` = 40 bit times (92_eei_decisions.md D7). -/
def guardBits : Nat := guardChars * charBits
/-- `LEGACY_NO_RESPONSE` = -2147483648 (30_encoding.md rule R113). -/
def legacyNoResponse : Word := 0x80000000
/-- `LEGACY_CHECKSUM_ERROR` = -2147483647. -/
def legacyChecksumError : Word := 0x80000001
/-- `LEGACY_UNSUPPORTED` = -1. -/
def legacyUnsupported : Word := 0xFFFFFFFF

/-! ## Parameters the spec leaves OPEN (00_scope.md rule R7): no body, log entry 5 -/

/-- `T_UNIT`, the duration of one time-unit, in microseconds. -/
opaque tUnit : Nat
/-- `TX_DONE_WAIT`, the bound of the transmission-complete wait, in microseconds. -/
opaque txDoneWait : Nat
/-- `READ_TIMEOUT`, the bound of the wait inside a response read, in microseconds. -/
opaque readTimeout : Nat
/-- `WRITE_ACK_VALUE`, the fixed success value of a write acknowledgment (43_frame_codec.md rule R191). -/
opaque writeAckValue : Word
/-- `LEGACY_UNDECODABLE` (30_encoding.md rule R113). -/
opaque legacyUndecodable : Word

/-! ## Free values: no body, log entries 2, 4, 6 and 7. Each is applied to the counter `State.fresh`. -/

/-- What the environment does at an interaction point the script does not cover (20_memory.md rule R72). -/
opaque environment : Nat → Slot
/-- What the channel loses of a frame's byte that arrives at a full queue (93_implementation_defined.md U7). -/
opaque freeLoss : Nat → Loss
/-- A byte where none was received (43_frame_codec.md rule R190; 10_state.md rule R36). -/
opaque freeByte : Nat → Byte
/-- `OUTCOME.VALUE` where it has no meaning (30_encoding.md rule R112). -/
opaque freeWord : Nat → Word
/-- `OUTCOME.TAG` after an operation that has no outcome (10_state.md rule R34). -/
opaque freeTag : Nat → OutcomeTag
/-- A queue after `ser_configure` (20_memory.md rule R73). -/
opaque freeQueue : Nat → List Byte
/-- `GUARD_US` where `CFG.BAUD` is 0, which no initialised block holds (44_transaction_manager.md rule R212). -/
opaque guardAtZeroBaud : Nat → Word

end Config

end Sys2Proof
end

