-- ==== Sys2Proof/Machine/Operands.lean ====
section
/-! DEFINITION. Operand assembly (30_encoding.md rules R96, R97): the byte layouts of the six wire frames, the fields of
the host command word, and what a received byte sequence decodes to (43_frame_codec.md). Pure functions. -/

namespace Sys2Proof.Machine

open Sys2Proof

/-- Response Outcome (10_state.md rule R34): the tagged result of an operation. An i32 is a 32-bit word read as two's
complement. -/
inductive ResponseOutcome where
  | value (v : Word)
  | noResponse
  | checksumError
  | unsupportedFunction
  | undecodableFunction
deriving DecidableEq, Repr

/-! ## Wire frames -/

/-- The bytes of a frame ahead of a checksum `c`, then the checksum, low byte first (43_frame_codec.md rule R180). -/
def withChecksum (body : List Byte) : List Byte :=
  body ++ [lo8 (checksum body), hi8 (checksum body)]

/-- Bytes 0 to 5 of a read request (rules R92, R182): 16-bit fields high byte first, quantity one register. -/
def readRequestBody (unitId function : Byte) (addr : Half) : List Byte :=
  [unitId, function, hi8 addr, lo8 addr, hi8 Config.quantity, lo8 Config.quantity]

/-- Bytes 0 to 8 of a write request (rules R93, R185). -/
def writeRequestBody (unitId : Byte) (addr value : Half) : List Byte :=
  [unitId, Config.fcWrite, hi8 addr, lo8 addr, hi8 Config.quantity, lo8 Config.quantity,
    Config.writeByteCount, hi8 value, lo8 value]

/-- A whole read request with the given checksum bytes (rule R92). -/
def readRequestFrame (unitId function : Byte) (addr : Half) (crcLo crcHi : Byte) : List Byte :=
  readRequestBody unitId function addr ++ [crcLo, crcHi]

/-- A whole write request with the given checksum bytes (rule R93). -/
def writeRequestFrame (unitId : Byte) (addr value : Half) (crcLo crcHi : Byte) : List Byte :=
  writeRequestBody unitId addr value ++ [crcLo, crcHi]

/-- A whole read response (rule R94): unit id, function, declared count, data, checksum. -/
def readResponseFrame (unitId function n : Byte) (data : List Byte) (crcLo crcHi : Byte) : List Byte :=
  unitId :: function :: n :: (data ++ [crcLo, crcHi])

/-- A whole write response (rule R95). -/
def writeResponseFrame (unitId : Byte) (addr qty : Half) (crcLo crcHi : Byte) : List Byte :=
  [unitId, Config.fcWrite, hi8 addr, lo8 addr, hi8 qty, lo8 qty, crcLo, crcHi]

/-- A 16-bit field from its high and low byte (20_memory.md rule R74). -/
def half (hi lo : Byte) : Half := hi ++ lo

/-- The function codes a read may use (30_encoding.md rule R99). -/
def isReadFunction (f : Byte) : Bool := f == Config.fcReadHolding || f == Config.fcReadInput

/-! ## The host command word (30_encoding.md rules R103 to R109): `CMD = {arg[63:0], op[2:0]}` -/

/-- `op`, bits 2 to 0. -/
def cmdOp (cmd : BitVec 67) : BitVec 3 := cmd.extractLsb' 0 3

/-- `arg`, bits 66 to 3. -/
def cmdArg (cmd : BitVec 67) : BitVec 64 := cmd.extractLsb' 3 64

/-- `{arg, op}` as one word. -/
def cmdWord (arg : BitVec 64) (op : BitVec 3) : BitVec 67 := arg ++ op

/-- The argument of INIT (rule R109): pin_tx, pin_re, pin_de, port, baud from the top down. -/
def initArg (port : Byte) (baud : Word) (pinDe pinRe pinTx : Byte) : BitVec 64 :=
  pinTx ++ pinRe ++ pinDe ++ port ++ baud

/-- The side port of INIT (rule R109): `cfg_ext = {rx_cap, pin_rx}`. -/
def initExt (rxCap : Word) (pinRx : Byte) : BitVec 40 := rxCap ++ pinRx

/-- The argument of REQUEST (rule R105): address, function, unit id; the upper half is ignored. -/
def requestArg (unitId function : Byte) (addr : Half) : BitVec 64 :=
  (0 : Word) ++ addr ++ function ++ unitId

/-- The argument of SET (rule R106): value, address, an ignored byte, unit id; the top 16 bits are ignored. -/
def setArg (unitId : Byte) (addr value : Half) : BitVec 64 :=
  (0 : Half) ++ value ++ addr ++ (0 : Byte) ++ unitId

/-- The argument of SET_BAUDRATE (rule R107); the upper half is ignored. -/
def baudArg (baud : Word) : BitVec 64 := (0 : Word) ++ baud

/-! ## What a received byte sequence decodes to -/

/-- BYTE_AT (rule R190): the received byte at `p`, a fresh free byte where none was received. `base` numbers the free
values of this decode. -/
def byteAt (base : Nat) (bytes : List Byte) (p : Nat) : Byte :=
  match bytes[p]? with
  | some b => b
  | none => Config.freeByte (base + p)

/-- READ_PAYLOAD (rule R189): `n` is byte 2, not validated; the bytes from index 3 on are shifted into a 32-bit word,
first byte most significant. -/
def readPayload (base : Nat) (bytes : List Byte) : Word :=
  (List.range (byteAt base bytes 2).toNat).foldl
    (fun w k => (w <<< 8) ||| (byteAt base bytes (3 + k)).zeroExtend 32) 0

/-- DECODE_RESPONSE (rule R188): length, then checksum, then function byte. -/
def decodeBytes (base : Nat) (bytes : List Byte) : ResponseOutcome :=
  if bytes.length < 4 then .checksumError
  else if crcValid bytes then
    let f := byteAt base bytes 1
    if isReadFunction f then .value (readPayload base bytes)
    else if f = Config.fcWrite then .value Config.writeAckValue
    else .undecodableFunction
  else .checksumError

end Sys2Proof.Machine
end

