-- ==== Sys2Proof/Syntax.lean ====
section
/-! DEFINITION. The repertoire: one constructor per row of spec/opcode_table.json (six wire frames, five host
commands, eleven internal operations), and the codes in which an encoded one reaches the block. -/

namespace Sys2Proof

/-- The rows of the opcode table, in the table's order. -/
inductive Instr where
  /-- RDREQ_HOLDING (rule R92): read request, function 3; `crcLo`, `crcHi` are bytes 6 and 7. -/
  | rdreqHolding (unitId : Byte) (addr : Half) (crcLo crcHi : Byte)
  /-- RDREQ_INPUT (rule R92): read request, function 4. -/
  | rdreqInput (unitId : Byte) (addr : Half) (crcLo crcHi : Byte)
  /-- WRREQ (rule R93): write request, function 16; `crcLo`, `crcHi` are bytes 9 and 10. -/
  | wrreq (unitId : Byte) (addr : Half) (value : Half) (crcLo crcHi : Byte)
  /-- RDRSP_HOLDING (rule R94): read response, function 3, declared count `n`, the bytes between it and the checksum. -/
  | rdrspHolding (unitId : Byte) (n : Byte) (data : List Byte) (crcLo crcHi : Byte)
  /-- RDRSP_INPUT (rule R94): read response, function 4. -/
  | rdrspInput (unitId : Byte) (n : Byte) (data : List Byte) (crcLo crcHi : Byte)
  /-- WRRSP (rule R95): write response, function 16. -/
  | wrrsp (unitId : Byte) (addr : Half) (qty : Half) (crcLo crcHi : Byte)
  /-- INIT (rules R109, R251): the whole configuration. -/
  | init (port : Byte) (baud rxCap : Word) (pinDe pinRe pinTx pinRx : Byte)
  /-- SET_BAUDRATE (rules R107, R256). -/
  | setBaudrate (baud : Word)
  /-- FLUSH (rules R108, R259). -/
  | flush
  /-- REQUEST (rules R105, R222). -/
  | request (unitId function : Byte) (addr : Half)
  /-- SET (rules R106, R225). -/
  | set (unitId : Byte) (addr value : Half)
  /-- CHECKSUM (rule R130). -/
  | checksum (bytes : List Byte)
  /-- SET_TRANSMIT (rule R151). -/
  | setTransmit (enabled : Bool)
  /-- T_FLUSH (rule R160). -/
  | tFlush
  /-- T_AVAILABLE (rule R161). -/
  | tAvailable
  /-- T_WRITE (rule R162). -/
  | tWrite (bytes : List Byte)
  /-- T_READ_RESPONSE (rule R165). -/
  | tReadResponse
  /-- BUILD_READ_REQUEST (rule R181). -/
  | buildReadRequest (unitId function : Byte) (addr : Half)
  /-- BUILD_WRITE_REQUEST (rule R184). -/
  | buildWriteRequest (unitId : Byte) (addr value : Half)
  /-- DECODE_RESPONSE (rule R187). -/
  | decodeResponse (bytes : List Byte)
  /-- GUARD_TIME (rule R211). -/
  | guardTime
  /-- TRANSACT (rule R215). -/
  | transact
deriving DecidableEq, Repr

/-- An instruction in bits (30_encoding.md rule R90): a host command word with the side port that is sampled with it
(rules R103, R109), or the bytes of a wire frame in wire order, sent by the block or received by it (rule R91). -/
inductive Code where
  | command (cmd : BitVec 67) (cfgExt : BitVec 40)
  | sent (bytes : List Byte)
  | received (bytes : List Byte)
deriving DecidableEq, Repr

/-- What reaches the block from outside at one step: time passing with no command, the reset, or an encoded
instruction (10_state.md rule R43; 70_reset_and_hazards.md rule R300; log entry 3). -/
inductive Input where
  | idle
  | reset
  | present (code : Code)
deriving DecidableEq, Repr

end Sys2Proof
end

