-- ==== Sys2Proof/Machine/State.lean ====
section
/-! DEFINITION. The state of the block (10_state.md), of the environment behind its collaborators (20_memory.md), and the
model's own bookkeeping, all as plain data; the state after reset. -/

namespace Sys2Proof.Machine

open Sys2Proof

/-- `CFG`, the Transceiver Configuration (10_state.md rules R21 to R25). -/
structure Configuration where
  port : Byte
  baud : Word
  rxCap : Word
  pinDe : Byte
  pinRe : Byte
  pinTx : Byte
  pinRx : Byte
deriving DecidableEq, Repr

/-- `SEQ` (rule R30): the transaction state. -/
inductive SeqState where
  | idle | transmitting | lineSwitchDelay | awaitingResponse | validating | decoded | retry | exhausted
deriving DecidableEq, Repr

/-- `REQ.KIND` (rule R33). -/
inductive Kind where
  | readHolding | readInput | writeSingle
deriving DecidableEq, Repr

/-- `REQ`, the Request Descriptor (rule R33). -/
structure Request where
  unitId : Byte
  kind : Kind
  addr : Half
  value : Half
deriving DecidableEq, Repr

/-- What `ser_configure` set the serial channel to (20_memory.md rule R73). -/
structure ChannelSettings where
  port : Byte
  baud : Word
  dataBits : Nat
  parity : Bool
  stopBits : Nat
  pinTx : Byte
  pinRx : Byte
  rxCap : Word
deriving DecidableEq, Repr

/-- The serial channel as environment (20_memory.md): its settings, none before the first INIT; RXQ (rule R66);
TXPEND and TXLINE (rule R65), a sent byte with the `LINE.TX_MODE` at the moment it moved. -/
structure Channel where
  settings : Option ChannelSettings
  rxq : List Byte
  txPend : List Byte
  txLine : List (Byte × Bool)
deriving DecidableEq, Repr

/-- One action on the environment, in the trace notation of 44_transaction_manager.md rule R230. -/
inductive Token where
  /-- `LINE(b)`: SET_TRANSMIT. -/
  | line (txMode : Bool)
  /-- `GUARD`: `wait_busy_us` of this many microseconds. -/
  | guard (us : Word)
  /-- `FLUSH`: `ser_flush`. -/
  | flush
  /-- `TX(bytes)`: `ser_write_bytes`. -/
  | tx (bytes : List Byte)
  /-- `TXWAIT`: `ser_wait_tx_done(TX_DONE_WAIT)`. -/
  | txwait
  /-- `COUNT=k`: `ser_buffered_count` returning `k`. -/
  | count (k : Nat)
  /-- `YIELD`: `wait_yield` of this many time-units. -/
  | yield (units : Nat)
  /-- `RX(bytes)`: `ser_read_bytes(16, READ_TIMEOUT)` returning these bytes. -/
  | rx (bytes : List Byte)
  /-- `CONFIGURE(...)`: `ser_configure`. -/
  | configure (settings : ChannelSettings)
  /-- `END(outcome)`: `finish`. -/
  | finished (o : ResponseOutcome)
deriving DecidableEq, Repr

/-- A token with the sequencer state, the line mode and the attempt number at the moment of the action. -/
structure TraceEntry where
  tok : Token
  seq : SeqState
  txMode : Bool
  attempt : BitVec 2
deriving DecidableEq, Repr

/-- What an internal operation returns to the sequencer that invoked it (00_scope.md rule R5). -/
inductive OpResult where
  | none
  | count (k : Nat)
  | gotBytes (yes : Bool)
  | outcome (o : ResponseOutcome)
deriving DecidableEq, Repr

/-- The machine's state. -/
structure State where
  /-- `CFG` (rules R21 to R25). -/
  cfg : Configuration
  /-- `INITIALISED` (rule R26). -/
  initialised : Bool
  /-- `LINE.TX_MODE` (rule R28); the outputs DE and RE both equal it. -/
  txMode : Bool
  /-- `BUSY` (rule R29). -/
  busy : Bool
  /-- `SEQ` (rule R30). -/
  seq : SeqState
  /-- `ATTEMPT` (rule R31). -/
  attempt : BitVec 2
  /-- `POLL` (rule R32). -/
  poll : BitVec 4
  /-- `REQ` (rule R33). -/
  req : Request
  /-- `OUTCOME.TAG` (rule R34). -/
  outTag : OutcomeTag
  /-- `OUTCOME.VALUE` (rule R34). -/
  outValue : Word
  /-- `rsp_valid` (rule R112). -/
  rspValid : Bool
  /-- `TXF[0..10]` (rule R35). -/
  txf : Vector Byte Config.writeReqLen
  /-- `TXF_LEN` (rule R35). -/
  txLen : Nat
  /-- `RXB[0..15]` (rule R36). -/
  rxb : Vector Byte Config.readMax
  /-- `RX_LEN` (rule R36). -/
  rxLen : Nat
  /-- `CRC_ACC` (rule R37). -/
  crcAcc : Half
  /-- `GUARD_US` (rule R38). -/
  guardUs : Word
  /-- The serial channel (rule R44). -/
  chan : Channel
  /-- The level last written to each GPIO pin (rules R44, R71): pins strictly rising, pins never written not listed. -/
  gpio : List (Nat × Bool)
  /-- What reaches the block from outside, the next stimulus first (log entry 3). -/
  inputs : List Input
  /-- What the environment does at the coming interaction points; free values after its end (log entry 2). -/
  script : List Slot
  /-- The model's own: the number of the next free value (log entry 4). -/
  fresh : Nat
  /-- The model's own: what the last internal operation returned (log entry 9). -/
  result : OpResult
  /-- The model's own: the actions on the environment so far, oldest first (log entry 10). -/
  trace : List TraceEntry
  /-- The model's own: the values SEQ has taken, oldest first (log entry 10). -/
  seqLog : List SeqState
deriving DecidableEq, Repr

/-- Faults. There is none: "The block has no exception, trap or fault in the sense of a transfer of control"
(60_exceptions.md rule R270), and no operation of the spec stops the machine (log entry 11). -/
inductive Fault
deriving DecidableEq, Repr

/-- Refusals: situations the spec gives no meaning ("refuse", 93_implementation_defined.md). All are safe: the model
stops where the spec says nothing, so no false claim about what happens there can be proved. -/
inductive Refusal where
  /-- An instruction with no meaning yet; raised by an arm of `exec` only. Safe. -/
  | notModelled (mnemonic : String)
  /-- SET_BAUDRATE, FLUSH, REQUEST or SET accepted before an INIT (45_host_operations.md rule R261). Safe. -/
  | notInitialised
  /-- INIT with `baud < 4800` or `rx_cap <= 128` (rule R252). Safe. -/
  | illegalConfiguration
  /-- SET_BAUDRATE with `baud < 4800` (rule R257). Safe. -/
  | illegalBaudRate
  /-- BUILD_READ_REQUEST with a function other than 3 and 4 (43_frame_codec.md rule R182). Safe. -/
  | functionNotARead
  /-- Bytes presented as sent that are no request frame with its own checksum: no build operation makes them
  (30_encoding.md rules R91 to R93), and nothing but the block sends (60_exceptions.md rule R283, 93 U13; log entry 6). Raised
  by the request frames and by `step`. Safe. -/
  | notABuiltFrame
  /-- A command word with a reserved op code, 5 to 7 (30_encoding.md rule R110, 92 D23, 93 U11: refuse). Raised by `step`.
  Safe. -/
  | notAnInstruction (why : String)
deriving DecidableEq, Repr

/-- The state right after reset (10_state.md rule R42). The registers the rule leaves unspecified, and the environment,
which `rst` does not reset (70_reset_and_hazards.md rule R302), hold the values log entry 1 names. -/
def State.reset : State where
  cfg := ⟨0, 0, 0, 0, 0, 0, 0⟩
  initialised := false
  txMode := false
  busy := false
  seq := .idle
  attempt := 0
  poll := 0
  req := ⟨0, .readHolding, 0, 0⟩
  outTag := .value
  outValue := 0
  rspValid := false
  txf := Vector.replicate Config.writeReqLen 0
  txLen := 0
  rxb := Vector.replicate Config.readMax 0
  rxLen := 0
  crcAcc := 0
  guardUs := 0
  chan := ⟨none, [], [], []⟩
  gpio := []
  inputs := []
  script := []
  fresh := 0
  result := .none
  trace := []
  seqLog := []

end Sys2Proof.Machine
end

