-- ==== Sys2Proof/Machine/Flags.lean ====
section
/-! DEFINITION. The codes and views of the block's status (the spec has no condition codes, 40_checksum.md rule R134;
what stands in their place is the outcome tag): tag, kind and sequencer codes, the command and result ports, the line
outputs, the legacy views of a result. -/

namespace Sys2Proof.Machine

open Sys2Proof

/-- The tag of an outcome (10_state.md rule R34). -/
def tagOf : ResponseOutcome → OutcomeTag
  | .value _ => .value
  | .noResponse => .noResponse
  | .checksumError => .checksumError
  | .unsupportedFunction => .unsupportedFunction
  | .undecodableFunction => .undecodableFunction

/-- Whether an outcome is `Value(_)`. -/
def isValue : ResponseOutcome → Bool
  | .value _ => true
  | .noResponse => false
  | .checksumError => false
  | .unsupportedFunction => false
  | .undecodableFunction => false

/-- Tag codes (rule R34, 92_eei_decisions.md D3). -/
def tagCode : OutcomeTag → BitVec 3
  | .value => 0
  | .noResponse => 1
  | .checksumError => 2
  | .unsupportedFunction => 3
  | .undecodableFunction => 4

/-- `SEQ` codes (rule R30). -/
def seqCode : SeqState → BitVec 3
  | .idle => 0
  | .transmitting => 1
  | .lineSwitchDelay => 2
  | .awaitingResponse => 3
  | .validating => 4
  | .decoded => 5
  | .retry => 6
  | .exhausted => 7

/-- `REQ.KIND` codes (rule R33). -/
def kindCode : Kind → BitVec 2
  | .readHolding => 0
  | .readInput => 1
  | .writeSingle => 2

/-- The function code a kind of request is sent with (30_encoding.md rule R99). -/
def functionOf : Kind → Byte
  | .readHolding => Config.fcReadHolding
  | .readInput => Config.fcReadInput
  | .writeSingle => Config.fcWrite

/-- The kind of a read request, `ReadHolding` for 3 and `ReadInput` otherwise (rule R222, after the check). -/
def readKind (f : Byte) : Kind := if f = Config.fcReadHolding then .readHolding else .readInput

/-- The outcome the OUTCOME register holds. -/
def outcomeOf (s : State) : ResponseOutcome :=
  match s.outTag with
  | .value => .value s.outValue
  | .noResponse => .noResponse
  | .checksumError => .checksumError
  | .unsupportedFunction => .unsupportedFunction
  | .undecodableFunction => .undecodableFunction

/-- The driver-enable output (41_line_direction.md rule R150). -/
def deOutput (s : State) : Bool := s.txMode

/-- The receiver-enable output, always equal to the driver-enable output (10_state.md rule R28). -/
def reOutput (s : State) : Bool := s.txMode

/-- `cmd_ready = not BUSY` (30_encoding.md rule R103). -/
def cmdReady (s : State) : Bool := !s.busy

/-- `rsp_tag` (rule R112). -/
def rspTag (s : State) : BitVec 3 := tagCode s.outTag

/-- `rsp_value` (rule R112). -/
def rspValue (s : State) : Word := s.outValue

/-- The legacy integer view of a REQUEST result (rule R113). -/
def legacyI32 : ResponseOutcome → Word
  | .value v => v
  | .noResponse => Config.legacyNoResponse
  | .checksumError => Config.legacyChecksumError
  | .unsupportedFunction => Config.legacyUnsupported
  | .undecodableFunction => Config.legacyUndecodable

/-- The boolean view of a SET result (rule R114). -/
def setOk (o : ResponseOutcome) : Bool := isValue o

/-- The i8 view of a SET result (rule R114). -/
def setI8 (o : ResponseOutcome) : Byte := if isValue o then 1 else 0

end Sys2Proof.Machine
end

