-- ==== Sys2Proof/Machine/Ops.lean ====
section
/-! DEFINITION. The named operations over the state: register writes, the environment's slot, the collaborator calls of
00_scope.md rule R11, the line switch, the buffers, the checksum and decode with their registers, and the two ways an
operation ends. -/

namespace Sys2Proof.Machine

open Sys2Proof

/-! ## Registers -/

/-- `SEQ <- q` (10_state.md rule R30); the model's log keeps every value. -/
def setSeq (q : SeqState) (s : State) : State := { s with seq := q, seqLog := s.seqLog ++ [q] }

/-- `ATTEMPT <- n` (rule R31). -/
def setAttempt (n : BitVec 2) (s : State) : State := { s with attempt := n }

/-- `POLL <- n` (rule R32). -/
def setPoll (n : BitVec 4) (s : State) : State := { s with poll := n }

/-- `REQ <- r` (rule R33). -/
def setReq (r : Request) (s : State) : State := { s with req := r }

/-- `CFG <- c` (rules R21 to R25). -/
def setCfg (c : Configuration) (s : State) : State := { s with cfg := c }

/-- `INITIALISED <- 1` (rule R26). -/
def setInitialised (s : State) : State := { s with initialised := true }

/-- `CRC_ACC <- c` (rule R37). -/
def setCrcAcc (c : Half) (s : State) : State := { s with crcAcc := c }

/-- `GUARD_US <- g` (rule R38). -/
def setGuardUs (g : Word) (s : State) : State := { s with guardUs := g }

/-- What an internal operation returns (log entry 9). -/
def setResult (r : OpResult) (s : State) : State := { s with result := r }

/-- The stimuli still to come (log entry 3). -/
def setInputs (l : List Input) (s : State) : State := { s with inputs := l }

/-- One more action in the trace (44_transaction_manager.md rule R230). -/
def logAct (tok : Token) (s : State) : State :=
  { s with trace := s.trace ++ [{ tok := tok, seq := s.seq, txMode := s.txMode, attempt := s.attempt }] }

/-! ## The environment (20_memory.md rules R65, R66, R72) -/

/-- A byte arrives at the tail of RXQ; at a full queue the environment decides what is lost (93 U7). -/
def arrive (cap : Nat) (b : Byte) (onFull : Loss) (q : List Byte) : List Byte :=
  if q.length < cap then q ++ [b]
  else
    match onFull with
    | .dropNew => q
    | .dropOld k => q.eraseIdx k ++ [b]
    | .keep => q ++ [b]

/-- The capacity of RXQ (20_memory.md rule R66): that of the settings. DESIGN CHOICE (log entry 16): 0 while the channel is
unconfigured, before INIT or after `rst`, where the spec is silent; so every byte that arrives then arrives at a full queue
and the environment decides its fate, loss or not. -/
def rxCapacity (c : Channel) : Nat := (c.settings.map fun t => t.rxCap.toNat).getD 0

/-- One environment step on the channel, while the line mode is `txMode`. -/
def channelStep (txMode : Bool) (c : Channel) (e : ChannelEvent) : Channel :=
  match e with
  | .arrive b onFull =>
    { c with rxq := arrive (rxCapacity c) b onFull c.rxq }
  | .drain =>
    match c.txPend with
    | [] => c
    | b :: rest => { c with txPend := rest, txLine := c.txLine ++ [(b, txMode)] }

/-- What the environment does at the next interaction point: the script's next slot, else a free one (log entry 2). -/
def nextSlot (s : State) : Slot :=
  match s.script with
  | sl :: _ => sl
  | [] => Config.environment s.fresh

/-- The environment takes these steps, in order. -/
def channelSteps (es : List ChannelEvent) (s : State) : State :=
  { s with chan := es.foldl (channelStep s.txMode) s.chan }

/-- An interaction point is over: the next one has the next slot. -/
def endSlot (s : State) : State := { s with script := s.script.tail, fresh := s.fresh + 1 }

/-- The environment acts: any number of its steps, before the block's next action or during a wait (rule R72). -/
def environment (s : State) : State := endSlot (channelSteps (nextSlot s).events s)

/-- A wire frame reaches the block from the line: its bytes come to RXQ one by one, each an environment step of the first
kind (rule R72 (a)); what a full queue loses is free (log entry 6). -/
def deliver (bytes : List Byte) (s : State) : State :=
  { channelSteps (bytes.zipIdx.map fun p => .arrive p.1 (Config.freeLoss (s.fresh + p.2))) s with
    fresh := s.fresh + bytes.length }

/-! ## The collaborator calls (00_scope.md rule R11; 20_memory.md rules R66 to R73) -/

/-- The queue of received unread bytes becomes `q`. -/
def setRxq (q : List Byte) (s : State) : State := { s with chan := { s.chan with rxq := q } }

/-- `bytes` join the tail of TXPEND. -/
def appendTxPend (bytes : List Byte) (s : State) : State :=
  { s with chan := { s.chan with txPend := s.chan.txPend ++ bytes } }

/-- The channel gets its settings; what RXQ and TXPEND hold afterwards is free (rule R73, 93 U8). -/
def resetChannel (t : ChannelSettings) (s : State) : State :=
  { s with
    chan := { settings := some t, rxq := Config.freeQueue s.fresh, txPend := Config.freeQueue (s.fresh + 1),
              txLine := s.chan.txLine }
    fresh := s.fresh + 2 }

/-- `ser_flush()` (rule R69): RXQ becomes empty, output is not touched. -/
def serFlush (s : State) : State := logAct .flush (setRxq [] s)

/-- `ser_write_bytes(bytes)` (rule R70). -/
def serWriteBytes (bytes : List Byte) (s : State) : State := logAct (.tx bytes) (appendTxPend bytes s)

/-- `ser_wait_tx_done(TX_DONE_WAIT)` (rule R70): it ends with TXPEND empty or not, as the environment's slot leaves it,
and the block cannot tell. -/
def serWaitTxDone (s : State) : State := environment (logAct .txwait s)

/-- `ser_buffered_count()` (rule R67): the length of RXQ at the call. -/
def serBufferedCount (s : State) : Nat := s.chan.rxq.length

/-- The call of `ser_buffered_count` recorded; it changes nothing else. -/
def logCount (s : State) : State := logAct (.count (serBufferedCount s)) s

/-- What the environment does during the wait of a `ser_read_bytes`: nothing where READ_TIMEOUT is zero, since then there
is no wait (42_serial_transport.md rule R168 (f)). -/
def eventsInWait (s : State) : List ChannelEvent := (nextSlot s).events.filter fun _ => decide (Config.readTimeout ≠ 0)

/-- What it does between such a read with no wait and the block's next action (rule R72). -/
def eventsAfterRead (s : State) : List ChannelEvent := (nextSlot s).events.filter fun _ => decide (Config.readTimeout = 0)

/-- The state when the wait of a `ser_read_bytes` is over and it takes its bytes. DESIGN CHOICE (log entry 17): the bytes
buffered at the call stay in RXQ during the wait, so that a byte arriving at a full queue then may cost one of them (93 U7)
before it is returned, where rule R68 returns them always; the other losses U7 allows return them all. -/
def readWait (s : State) : State := channelSteps (eventsInWait s) s

/-- The number of bytes a `ser_read_bytes(max, READ_TIMEOUT)` returns: at least those buffered at the call, at most
those there when its wait is over, never more than `max` (rule R68); with no wait exactly those buffered at the call, up to
`max` (42_serial_transport.md rule R168 (f)). -/
def readCount (max : Nat) (s : State) : Nat :=
  min (min s.chan.rxq.length max + (nextSlot s).extra) (min (readWait s).chan.rxq.length max)

/-- The bytes a `ser_read_bytes(max, READ_TIMEOUT)` returns: the head of RXQ, in queue order. -/
def readBytes (max : Nat) (s : State) : List Byte := (readWait s).chan.rxq.take (readCount max s)

/-- `ser_read_bytes(max, READ_TIMEOUT)` (rule R68): the environment acts during the wait, and the bytes returned leave
RXQ. -/
def serReadBytes (max : Nat) (s : State) : State :=
  logAct (.rx (readBytes max s))
    (endSlot (channelSteps (eventsAfterRead s) (setRxq ((readWait s).chan.rxq.drop (readCount max s)) (readWait s))))

/-- The settings `ser_configure` is called with: 8 data bits, no parity, 1 stop bit (rule R73). -/
def settingsOf (c : Configuration) : ChannelSettings :=
  { port := c.port, baud := c.baud, dataBits := 8, parity := false, stopBits := 1,
    pinTx := c.pinTx, pinRx := c.pinRx, rxCap := c.rxCap }

/-- `ser_configure(port, baud, 8, none, 1, pin_tx, pin_rx, rx_cap)` from the configuration held (rule R73). -/
def serConfigure (s : State) : State :=
  logAct (.configure (settingsOf s.cfg)) (resetChannel (settingsOf s.cfg) s)

/-- `wait_busy_us(n)`: a pure delay during which the environment may act (44_transaction_manager.md rule R227). -/
def waitBusyUs (n : Word) (s : State) : State := environment (logAct (.guard n) s)

/-- `wait_yield(n)`: the yielding delay between polls. -/
def waitYield (n : Nat) (s : State) : State := environment (logAct (.yield n) s)

/-! ## GPIO pins and the line (41_line_direction.md) -/

/-- `gpio_set(pin, level)` on the list of levels (20_memory.md rule R71). -/
def pinWrite (l : List (Nat × Bool)) (p : Nat) (v : Bool) : List (Nat × Bool) :=
  match l with
  | [] => [(p, v)]
  | (q, w) :: rest =>
    if p < q then (p, v) :: (q, w) :: rest
    else if p = q then (p, v) :: rest
    else (q, w) :: pinWrite rest p v

/-- The level last written to a pin, none if the block never wrote it. -/
def pinLevel (l : List (Nat × Bool)) (p : Nat) : Option Bool :=
  match l with
  | [] => none
  | (q, w) :: rest => if q = p then some w else pinLevel rest p

/-- The canonical form of the list of levels: pins strictly rising. -/
abbrev GpioWf (l : List (Nat × Bool)) : Prop := l.Pairwise fun a b => a.1 < b.1

/-- The three writes of SET_TRANSMIT as one action (rule R151): `LINE.TX_MODE`, the DE pin, the RE pin. -/
def driveLine (level : Bool) (s : State) : State :=
  { s with
    txMode := level
    gpio := pinWrite (pinWrite s.gpio s.cfg.pinDe.toNat level) s.cfg.pinRe.toNat level }

/-- SET_TRANSMIT (rule R151). -/
def setTransmit (enabled : Bool) (s : State) : State := logAct (.line enabled) (driveLine enabled s)

/-! ## The byte buffers (20_memory.md rules R61, R62) -/

/-- `TXF[0 .. len] <- bytes`, `TXF_LEN <- len`; positions beyond keep what they held. -/
def loadTxf (len : Nat) (bytes : List Byte) (s : State) : State :=
  { s with
    txf := Vector.ofFn fun i : Fin Config.writeReqLen => (bytes[i.val]?).getD s.txf[i]
    txLen := len }

/-- `TXF[0 .. TXF_LEN]`. -/
def txFrame (s : State) : List Byte := s.txf.toList.take s.txLen

/-- `RX_LEN <- 0` (10_state.md rule R36, 92_eei_decisions.md D29). -/
def clearRx (s : State) : State := { s with rxLen := 0 }

/-- `RXB[0 .. len] <- got`, `RX_LEN <- len`; positions beyond become unspecified (42_serial_transport.md rule R166), a
free byte each. -/
def loadRxb (got : List Byte) (s : State) : State :=
  { s with
    rxb := Vector.ofFn fun i : Fin Config.readMax => (got[i.val]?).getD (Config.freeByte (s.fresh + i.val))
    rxLen := got.length
    fresh := s.fresh + Config.readMax }

/-- `RXB[0 .. RX_LEN]`. -/
def rxFrame (s : State) : List Byte := s.rxb.toList.take s.rxLen

/-! ## Checksum and decode with their registers -/

/-- CHECKSUM of `bytes`: its result stands in `CRC_ACC` (40_checksum.md rules R130, R131). -/
def computeChecksum (bytes : List Byte) (s : State) : State := setCrcAcc (checksum bytes) s

/-- Free values a decode may have used, all numbers below the next one. -/
def advanceFresh (n : Nat) (s : State) : State := { s with fresh := s.fresh + n }

/-- The free values a decode is given numbers for: positions 0 to 3 + 255 of BYTE_AT. -/
def decodeDraws : Nat := 259

/-- What DECODE_RESPONSE answers in state `s` (43_frame_codec.md rule R188). -/
def decodeOutcome (bytes : List Byte) (s : State) : ResponseOutcome := decodeBytes s.fresh bytes

/-- What DECODE_RESPONSE writes: `CRC_ACC`, and nothing where the length is under 4 (rules R187, R188). -/
def decodeWrites (bytes : List Byte) (s : State) : State :=
  if bytes.length < 4 then s
  else advanceFresh decodeDraws (computeChecksum (bytes.take (bytes.length - 2)) s)

/-! ## Acceptance and end of an operation -/

/-- A command is accepted (30_encoding.md rules R103, R112): `BUSY <- 1`, the result is no longer valid. -/
def accept (s : State) : State := { s with busy := true, rspValid := false }

/-- `BUSY <- 0` and, at the same moment, the result indication (rule R112). -/
def complete (s : State) : State := { s with busy := false, rspValid := true }

/-- `OUTCOME.VALUE` after an outcome: the value, a free word for every other kind (rule R112). -/
def outcomeValue (n : Nat) (o : ResponseOutcome) : Word :=
  match o with
  | .value v => v
  | .noResponse => Config.freeWord n
  | .checksumError => Config.freeWord n
  | .unsupportedFunction => Config.freeWord n
  | .undecodableFunction => Config.freeWord n

/-- `OUTCOME <- o` (10_state.md rule R34). -/
def setOutcome (o : ResponseOutcome) (s : State) : State :=
  { s with outTag := tagOf o, outValue := outcomeValue s.fresh o, fresh := s.fresh + 1 }

/-- `OUTCOME` unspecified after INIT and SET_BAUDRATE (rules R34, R112, log entry 7). -/
def forgetOutcome (s : State) : State :=
  { s with outTag := Config.freeTag s.fresh, outValue := Config.freeWord s.fresh, fresh := s.fresh + 1 }

/-- `OUTCOME.VALUE` unspecified and `OUTCOME.TAG` kept, after FLUSH (rules R112, R259, log entry 7). -/
def forgetValue (s : State) : State := { s with outValue := Config.freeWord s.fresh, fresh := s.fresh + 1 }

/-- `finish(o)` (44_transaction_manager.md rule R221); the environment may act between the action before it and the end
(20_memory.md rule R72). -/
def finish (o : ResponseOutcome) (s : State) : State := complete (logAct (.finished o) (setOutcome o (environment s)))

/-- `finish_no_result()` (45_host_operations.md rule R262): completion only; the environment may act before it, as before
`finish`. -/
def finishNoResult (s : State) : State := complete (environment s)

/-- `rst` (70_reset_and_hazards.md rules R300 to R302): the registers as after reset and the channel unconfigured; the
bytes in the environment, what is still to come from outside, and the model's own logs are not reset. -/
def applyReset (s : State) : State :=
  { State.reset with
    chan := { s.chan with settings := none }, gpio := s.gpio, inputs := s.inputs, script := s.script, fresh := s.fresh,
    trace := s.trace, seqLog := s.seqLog }

end Sys2Proof.Machine
end

