-- ==== Sys2Proof/Machine/ChecksumEngine.lean ====
section
/-! DEFINITION. The Checksum Engine as an operation: CHECKSUM (40_checksum.md). -/

namespace Sys2Proof.Machine

open Sys2Proof

/-- CHECKSUM (rules R130, R131): total; writes `CRC_ACC` only, whose final value is the result. -/
def execChecksum (bytes : List Byte) (s : State) : Host.Outcome State Fault Refusal :=
  .next (computeChecksum bytes s)

end Sys2Proof.Machine
end

