-- ==== Sys2Proof/Machine/FrameCodec.lean ====
section
/-! DEFINITION. The Frame Codec: BUILD_READ_REQUEST, BUILD_WRITE_REQUEST, DECODE_RESPONSE (43_frame_codec.md). -/

namespace Sys2Proof.Machine

open Sys2Proof

/-- A frame of `len` bytes is built: the checksum of `body` in `CRC_ACC`, the body and the checksum in TXF (rules R180,
R182, R185). -/
def buildFrame (len : Nat) (body : List Byte) (s : State) : State :=
  loadTxf len (withChecksum body) (computeChecksum body s)

/-- BUILD_READ_REQUEST for a function the caller has checked (rule R182). -/
def buildRead (unitId function : Byte) (addr : Half) (s : State) : State :=
  buildFrame Config.readReqLen (readRequestBody unitId function addr) s

/-- BUILD_WRITE_REQUEST (rule R185). -/
def buildWrite (unitId : Byte) (addr value : Half) (s : State) : State :=
  buildFrame Config.writeReqLen (writeRequestBody unitId addr value) s

/-- BUILD_READ_REQUEST (rule R182): outside function 3 and 4 the operation has no meaning and is refused. -/
def execBuildReadRequest (unitId function : Byte) (addr : Half) (s : State) : Host.Outcome State Fault Refusal :=
  if isReadFunction function then .next (buildRead unitId function addr s) else .refused .functionNotARead

/-- BUILD_WRITE_REQUEST (rule R185): total. -/
def execBuildWriteRequest (unitId : Byte) (addr value : Half) (s : State) : Host.Outcome State Fault Refusal :=
  .next (buildWrite unitId addr value s)

/-- DECODE_RESPONSE run as an operation of its own: the outcome is its result and, at its end, in OUTCOME
(10_state.md rule R34). -/
def decodeAlone (bytes : List Byte) (s : State) : State :=
  setResult (.outcome (decodeOutcome bytes s)) (setOutcome (decodeOutcome bytes s) (decodeWrites bytes s))

/-- DECODE_RESPONSE (rules R187, R188): total on any byte sequence. -/
def execDecodeResponse (bytes : List Byte) (s : State) : Host.Outcome State Fault Refusal :=
  .next (decodeAlone bytes s)

end Sys2Proof.Machine
end

