-- ==== Sys2Proof/Machine/SerialTransport.lean ====
section
/-! DEFINITION. The Serial Transport: T_FLUSH, T_AVAILABLE, T_WRITE, T_READ_RESPONSE (42_serial_transport.md). -/

namespace Sys2Proof.Machine

open Sys2Proof

/-- T_WRITE (rule R163): flush, write, wait for completion; between two actions only the environment acts. -/
def transportWrite (bytes : List Byte) (s : State) : State :=
  serWaitTxDone (serWriteBytes bytes (environment (serFlush s)))

/-- The response read after a poll that saw enough bytes (rule R166): RXB and RX_LEN take what the read returns. -/
def readResponse (s : State) : State := loadRxb (readBytes Config.readMax s) (serReadBytes Config.readMax s)

/-- The polling loop of T_READ_RESPONSE with `k` polls left (rule R166): test, then read at once or wait. -/
def pollLoop : Nat → State → Bool × State
  | 0, s => (false, s)
  | k + 1, s =>
    if Config.rxThreshold < serBufferedCount s then
      (true, readResponse (environment (setPoll (s.poll + 1) (logCount s))))
    else pollLoop k (waitYield Config.pollInterval (setPoll (s.poll + 1) (logCount s)))

/-- T_READ_RESPONSE (rule R166): true with the bytes in `RXB[0 .. RX_LEN]`, or false, "no response". -/
def transportReadResponse (s : State) : Bool × State := pollLoop Config.pollCount (clearRx (setPoll 0 s))

/-- T_FLUSH (rule R160): RXQ is emptied; RXB and RX_LEN are not cleared. -/
def execTFlush (s : State) : Host.Outcome State Fault Refusal := .next (serFlush s)

/-- T_AVAILABLE (rule R161): the buffered count; it writes no register and never waits. -/
def execTAvailable (s : State) : Host.Outcome State Fault Refusal :=
  .next (setResult (.count (serBufferedCount s)) (logCount s))

/-- T_WRITE (rules R162, R163): no return value, no failure. -/
def execTWrite (bytes : List Byte) (s : State) : Host.Outcome State Fault Refusal :=
  .next (transportWrite bytes s)

/-- T_READ_RESPONSE (rules R165, R166): Bytes or "no response", a result either way (rule R167). -/
def execTReadResponse (s : State) : Host.Outcome State Fault Refusal :=
  .next (setResult (.gotBytes (transportReadResponse s).1) (transportReadResponse s).2)

end Sys2Proof.Machine
end

