-- ==== Sys2Proof/Machine/TransactionManager.lean ====
section
/-! DEFINITION. The Master Transaction Manager: GUARD_TIME, TRANSACT, REQUEST, SET (44_transaction_manager.md). -/

namespace Sys2Proof.Machine

open Sys2Proof

/-- The guard time in microseconds for a baud rate (rule R212): floor(40000000 / baud); for a baud rate of 0, which no
initialised block holds, a free value. -/
def guardTimeOf (n : Nat) (baud : Word) : Word :=
  if baud = 0 then Config.guardAtZeroBaud n else BitVec.ofNat 32 (Config.guardBits * 1000000) / baud

/-- GUARD_TIME (rule R212). -/
def computeGuardTime (s : State) : State := advanceFresh 1 (setGuardUs (guardTimeOf s.fresh s.cfg.baud) s)

/-- The transmit step of one attempt (rule R216): transmit mode, guard wait, write, guard wait, receive mode. -/
def transmitStep (s : State) : State :=
  let s1 := waitBusyUs s.guardUs (setTransmit true (environment (setSeq .transmitting s)))
  let s2 := transportWrite (txFrame s1) s1
  let s3 := waitBusyUs s2.guardUs (setSeq .lineSwitchDelay s2)
  setTransmit false s3

/-- The validate step of one attempt (rule R216): DECODE_RESPONSE of `RXB[0 .. RX_LEN]`. -/
def validateStep (s : State) : ResponseOutcome × State :=
  (decodeOutcome (rxFrame s) s, decodeWrites (rxFrame s) (setSeq .validating s))

/-- The await and validate steps of one attempt, `SEQ` being AwaitingResponse (rule R216): the response read, and the
decode where bytes arrived. -/
def awaitAndValidate (s : State) : ResponseOutcome × State :=
  let r := transportReadResponse s
  if r.1 then validateStep r.2 else (.noResponse, r.2)

/-- One attempt, the full transmit/await cycle (rule R216); the environment acts before the response read. -/
def attemptOnce (s : State) : ResponseOutcome × State :=
  awaitAndValidate (environment (setSeq .awaitingResponse (transmitStep s)))

/-- The retry loop of TRANSACT with at most `k` attempts left (rule R217). -/
def transactLoop : Nat → State → ResponseOutcome × State
  | 0, s => (.checksumError, s)
  | k + 1, s =>
    let r := attemptOnce s
    match r.1 with
    | .value v => (.value v, setTransmit true (environment (setSeq .decoded r.2)))
    | .noResponse => (.noResponse, r.2)
    | .undecodableFunction => (.undecodableFunction, r.2)
    | .unsupportedFunction => (.unsupportedFunction, r.2)
    | .checksumError =>
      if r.2.attempt = BitVec.ofNat 2 Config.maxAttempts then (.checksumError, setSeq .exhausted r.2)
      else transactLoop k (setAttempt (r.2.attempt + 1) (setSeq .retry r.2))

/-- TRANSACT (rule R217): `ATTEMPT <- 1`, then at most 3 attempts. -/
def runTransact (s : State) : ResponseOutcome × State := transactLoop Config.maxAttempts (setAttempt 1 s)

/-- A transaction from the built frame to its end (rules R222, R225): TRANSACT, SEQ back to Idle, finish. -/
def runTransaction (s : State) : State := finish (runTransact s).1 (setSeq .idle (runTransact s).2)

/-- What REQUEST does before TRANSACT, for a supported function (rule R222). -/
def prepareRead (unitId function : Byte) (addr : Half) (s : State) : State :=
  let s1 := setReq { s.req with unitId := unitId, kind := readKind function, addr := addr } s
  computeGuardTime (buildRead s1.req.unitId (functionOf s1.req.kind) s1.req.addr s1)

/-- What SET does before TRANSACT (rule R225). -/
def prepareWrite (unitId : Byte) (addr value : Half) (s : State) : State :=
  let s1 := setReq ⟨unitId, .writeSingle, addr, value⟩ s
  computeGuardTime (buildWrite s1.req.unitId s1.req.addr s1.req.value s1)

/-- REQUEST once accepted (rules R218, R222). `REQ.UNIT_ID` and `REQ.ADDR` are written on acceptance whatever the function
is, `REQ.KIND` only after the check (30_encoding.md rule R105, 92_eei_decisions.md D28; log entry 8). -/
def requestBody (unitId function : Byte) (addr : Half) (s : State) : State :=
  if isReadFunction function then runTransaction (prepareRead unitId function addr s)
  else finish .unsupportedFunction (setReq { s.req with unitId := unitId, addr := addr } s)

/-- SET once accepted (rule R225). -/
def setBody (unitId : Byte) (addr value : Half) (s : State) : State :=
  runTransaction (prepareWrite unitId addr value s)

/-- A host command that needs the configuration, with the rest of its body: not accepted while BUSY (30_encoding.md rule
R103), refused before the first INIT (45_host_operations.md rule R261). -/
def whenInitialised (body : State → State) (s : State) : Host.Outcome State Fault Refusal :=
  if s.busy then .next s
  else if s.initialised then .next (body (accept s))
  else .refused .notInitialised

/-- GUARD_TIME (rules R211, R212). -/
def execGuardTime (s : State) : Host.Outcome State Fault Refusal := .next (computeGuardTime s)

/-- TRANSACT (rules R215, R217): the outcome is its result. -/
def execTransact (s : State) : Host.Outcome State Fault Refusal :=
  .next (setResult (.outcome (runTransact s).1) (runTransact s).2)

/-- REQUEST (rule R222). -/
def execRequest (unitId function : Byte) (addr : Half) (s : State) : Host.Outcome State Fault Refusal :=
  whenInitialised (requestBody unitId function addr) s

/-- SET (rule R225). -/
def execSet (unitId : Byte) (addr value : Half) (s : State) : Host.Outcome State Fault Refusal :=
  whenInitialised (setBody unitId addr value) s

end Sys2Proof.Machine
end

