-- ==== Sys2Proof/Machine/HostOperations.lean ====
section
/-! DEFINITION. The exposed configuration operations: INIT, SET_BAUDRATE, FLUSH (45_host_operations.md). -/

namespace Sys2Proof.Machine

open Sys2Proof

/-- The bounds of the configuration (rule R252). -/
def legalConfiguration (baud rxCap : Word) : Bool :=
  decide (Config.minBaud ≤ baud) && decide (Config.minRxCapExcl < rxCap)

/-- INIT once accepted (rule R253); between its actions the environment acts (20_memory.md rule R72). -/
def initBody (c : Configuration) (s : State) : State :=
  finishNoResult (forgetOutcome (setInitialised (setTransmit false (environment (serConfigure (environment (setCfg c s)))))))

/-- SET_BAUDRATE once accepted (rule R256); between its actions the environment acts (rule R72). -/
def baudBody (baud : Word) (s : State) : State :=
  finishNoResult (forgetOutcome (serConfigure (environment (setCfg { s.cfg with baud := baud } s))))

/-- FLUSH once accepted (rule R259); between its actions the environment acts (rule R72). -/
def flushBody (s : State) : State := finishNoResult (forgetValue (serFlush (environment s)))

/-- INIT (rules R252 to R254): the first or a later one alike. -/
def execInit (port : Byte) (baud rxCap : Word) (pinDe pinRe pinTx pinRx : Byte) (s : State) :
    Host.Outcome State Fault Refusal :=
  if s.busy then .next s
  else if legalConfiguration baud rxCap then
    .next (initBody ⟨port, baud, rxCap, pinDe, pinRe, pinTx, pinRx⟩ (accept s))
  else .refused .illegalConfiguration

/-- SET_BAUDRATE (rules R256, R257). -/
def execSetBaudrate (baud : Word) (s : State) : Host.Outcome State Fault Refusal :=
  if s.busy then .next s
  else if s.initialised then
    if Config.minBaud ≤ baud then .next (baudBody baud (accept s)) else .refused .illegalBaudRate
  else .refused .notInitialised

/-- FLUSH (rule R259). -/
def execFlush (s : State) : Host.Outcome State Fault Refusal := whenInitialised flushBody s

end Sys2Proof.Machine
end

