-- ==== Sys2Proof/Machine/LineDirection.lean ====
section
/-! DEFINITION. The Line Direction Controller: SET_TRANSMIT (41_line_direction.md). -/

namespace Sys2Proof.Machine

open Sys2Proof

/-- SET_TRANSMIT (rule R151): the line mode and both pins in one action; it never fails. -/
def execSetTransmit (enabled : Bool) (s : State) : Host.Outcome State Fault Refusal :=
  .next (setTransmit enabled s)

end Sys2Proof.Machine
end

