-- ==== Sys2Proof/Machine/WireFrames.lean ====
section
/-! DEFINITION. The six wire frames as instructions (30_encoding.md rules R92 to R95; log entry 6): a request frame is sent
by the transaction that builds it, a response frame arrives in RXQ and is read and decoded where the block awaits it. -/

namespace Sys2Proof.Machine

open Sys2Proof

/-- A request frame goes out in the one way the block sends one (20_memory.md rules R60, R61, 60_exceptions.md rule R283):
built by its build operation and sent by the transaction `body`, under the conditions of the host command that runs it. A
sequence whose last two bytes are not the checksum of the others is no request frame (30_encoding.md rule R91). -/
def sendFrame (frame built : List Byte) (body : State → State) (s : State) : Host.Outcome State Fault Refusal :=
  if frame = built then whenInitialised body s else .refused .notABuiltFrame

/-- Bytes from the line reach the block, a response frame or any other sequence: they arrive in RXQ (20_memory.md rules R66,
R72). Where the block awaits a response, the response read and the decode follow (44_transaction_manager.md rule R216), the
environment acting before the first poll, and the outcome goes to the sequencer (log entry 9); in any other state of the
sequencer nothing reads the channel (60_exceptions.md rule R283). -/
def receiveFrame (bytes : List Byte) (s : State) : State :=
  if s.seq = .awaitingResponse then
    let r := awaitAndValidate (environment (deliver bytes s))
    setResult (.outcome r.1) r.2
  else deliver bytes s

/-- RDREQ_HOLDING (rules R92, R222): the frame of REQUEST with function 3. -/
def execRdreqHolding (unitId : Byte) (addr : Half) (lo hi : Byte) (s : State) : Host.Outcome State Fault Refusal :=
  sendFrame (readRequestFrame unitId Config.fcReadHolding addr lo hi)
    (withChecksum (readRequestBody unitId Config.fcReadHolding addr)) (requestBody unitId Config.fcReadHolding addr) s

/-- RDREQ_INPUT (rules R92, R222): the frame of REQUEST with function 4. -/
def execRdreqInput (unitId : Byte) (addr : Half) (lo hi : Byte) (s : State) : Host.Outcome State Fault Refusal :=
  sendFrame (readRequestFrame unitId Config.fcReadInput addr lo hi)
    (withChecksum (readRequestBody unitId Config.fcReadInput addr)) (requestBody unitId Config.fcReadInput addr) s

/-- WRREQ (rules R93, R225): the frame of SET. -/
def execWrreq (unitId : Byte) (addr value : Half) (lo hi : Byte) (s : State) : Host.Outcome State Fault Refusal :=
  sendFrame (writeRequestFrame unitId addr value lo hi) (withChecksum (writeRequestBody unitId addr value))
    (setBody unitId addr value) s

/-- RDRSP_HOLDING (rules R94, R188, R189). -/
def execRdrspHolding (unitId n : Byte) (data : List Byte) (lo hi : Byte) (s : State) :
    Host.Outcome State Fault Refusal :=
  .next (receiveFrame (readResponseFrame unitId Config.fcReadHolding n data lo hi) s)

/-- RDRSP_INPUT (rules R94, R188, R189). -/
def execRdrspInput (unitId n : Byte) (data : List Byte) (lo hi : Byte) (s : State) :
    Host.Outcome State Fault Refusal :=
  .next (receiveFrame (readResponseFrame unitId Config.fcReadInput n data lo hi) s)

/-- WRRSP (rules R95, R191). -/
def execWrrsp (unitId : Byte) (addr qty : Half) (lo hi : Byte) (s : State) : Host.Outcome State Fault Refusal :=
  .next (receiveFrame (writeResponseFrame unitId addr qty lo hi) s)

end Sys2Proof.Machine
end

