-- ==== Sys2Proof/Machine/Dispatch.lean ====
section
/-! DEFINITION. The meaning of every instruction: one arm per row of spec/opcode_table.json. -/

namespace Sys2Proof.Machine

open Sys2Proof

def exec (i : Instr) (s : State) : Host.Outcome State Fault Refusal :=
  match i with
  | .rdreqHolding unitId addr lo hi => Sys2Proof.Machine.execRdreqHolding unitId addr lo hi s
  | .rdreqInput unitId addr lo hi => Sys2Proof.Machine.execRdreqInput unitId addr lo hi s
  | .wrreq unitId addr value lo hi => Sys2Proof.Machine.execWrreq unitId addr value lo hi s
  | .rdrspHolding unitId n data lo hi => Sys2Proof.Machine.execRdrspHolding unitId n data lo hi s
  | .rdrspInput unitId n data lo hi => Sys2Proof.Machine.execRdrspInput unitId n data lo hi s
  | .wrrsp unitId addr qty lo hi => Sys2Proof.Machine.execWrrsp unitId addr qty lo hi s
  | .init port baud rxCap pinDe pinRe pinTx pinRx => Sys2Proof.Machine.execInit port baud rxCap pinDe pinRe pinTx pinRx s
  | .setBaudrate baud => Sys2Proof.Machine.execSetBaudrate baud s
  | .flush => Sys2Proof.Machine.execFlush s
  | .request unitId function addr => Sys2Proof.Machine.execRequest unitId function addr s
  | .set unitId addr value => Sys2Proof.Machine.execSet unitId addr value s
  | .checksum bytes => Sys2Proof.Machine.execChecksum bytes s
  | .setTransmit enabled => Sys2Proof.Machine.execSetTransmit enabled s
  | .tFlush => Sys2Proof.Machine.execTFlush s
  | .tAvailable => Sys2Proof.Machine.execTAvailable s
  | .tWrite bytes => Sys2Proof.Machine.execTWrite bytes s
  | .tReadResponse => Sys2Proof.Machine.execTReadResponse s
  | .buildReadRequest unitId function addr => Sys2Proof.Machine.execBuildReadRequest unitId function addr s
  | .buildWriteRequest unitId addr value => Sys2Proof.Machine.execBuildWriteRequest unitId addr value s
  | .decodeResponse bytes => Sys2Proof.Machine.execDecodeResponse bytes s
  | .guardTime => Sys2Proof.Machine.execGuardTime s
  | .transact => Sys2Proof.Machine.execTransact s

end Sys2Proof.Machine
end

