-- ==== Sys2Proof/WellFormed.lean ====
section
/-! DEFINITION. Which terms of Instr the spec gives a place: the values of every field it restricts. -/

namespace Sys2Proof

open Machine

/-- A well-formed instruction.
A request frame carries the checksum of its other bytes (rules R92, R93, R180); a read response has as many data bytes
as it declares (rule R94), while the checksum of a received frame may be wrong (rule R188); INIT and SET_BAUDRATE keep
the configuration's bounds (rules R252, R257); BUILD_READ_REQUEST takes function 3 or 4 only (rule R182). Nothing else
is restricted (rules R102, R110). -/
def wellFormed : Instr → Bool
  | .rdreqHolding id addr lo hi =>
    readRequestFrame id Config.fcReadHolding addr lo hi == withChecksum (readRequestBody id Config.fcReadHolding addr)
  | .rdreqInput id addr lo hi =>
    readRequestFrame id Config.fcReadInput addr lo hi == withChecksum (readRequestBody id Config.fcReadInput addr)
  | .wrreq id addr value lo hi =>
    writeRequestFrame id addr value lo hi == withChecksum (writeRequestBody id addr value)
  | .rdrspHolding _ n data _ _ => data.length == n.toNat
  | .rdrspInput _ n data _ _ => data.length == n.toNat
  | .wrrsp _ _ _ _ _ => true
  | .init _ baud rxCap _ _ _ _ => decide (Config.minBaud ≤ baud) && decide (Config.minRxCapExcl < rxCap)
  | .setBaudrate baud => decide (Config.minBaud ≤ baud)
  | .flush => true
  | .request _ _ _ => true
  | .set _ _ _ => true
  | .checksum _ => true
  | .setTransmit _ => true
  | .tFlush => true
  | .tAvailable => true
  | .tWrite _ => true
  | .tReadResponse => true
  | .buildReadRequest _ f _ => isReadFunction f
  | .buildWriteRequest _ _ _ => true
  | .decodeResponse _ => true
  | .guardTime => true
  | .transact => true

end Sys2Proof
end

