-- ==== Sys2Proof/Decode.lean ====
section
/-! DEFINITION. The decoder, total on any code and rejecting by name, and after it the encoder, both from the encodings
of 30_encoding.md. -/

namespace Sys2Proof

open Machine

/-- Why a code is no instruction. -/
inductive Reject where
  /-- A command word with op code 5, 6 or 7 (rule R110). -/
  | reservedOpcode
  /-- A byte sequence that has the layout of no request frame (rules R92, R93). -/
  | notARequestFrame
  /-- A byte sequence that has the layout of no response frame (rules R94, R95). -/
  | notAResponseFrame
deriving DecidableEq, Repr

/-- A host command word with its side port (rules R103 to R110); ignored bits have no effect. -/
def decodeCommand (cmd : BitVec 67) (ext : BitVec 40) : Except Reject Instr :=
  let arg := cmdArg cmd
  match (cmdOp cmd).toNat with
  | 0 => .ok (.init (arg.extractLsb' 32 8) (arg.extractLsb' 0 32) (ext.extractLsb' 8 32)
      (arg.extractLsb' 40 8) (arg.extractLsb' 48 8) (arg.extractLsb' 56 8) (ext.extractLsb' 0 8))
  | 1 => .ok (.setBaudrate (arg.extractLsb' 0 32))
  | 2 => .ok .flush
  | 3 => .ok (.request (arg.extractLsb' 0 8) (arg.extractLsb' 8 8) (arg.extractLsb' 16 16))
  | 4 => .ok (.set (arg.extractLsb' 0 8) (arg.extractLsb' 16 16) (arg.extractLsb' 32 16))
  | _ => .error .reservedOpcode

/-- A frame the block sends: its length and its fixed bytes tell the kind (rules R92, R93). -/
def decodeSent (bytes : List Byte) : Except Reject Instr :=
  match bytes with
  | [id, f, ah, al, qh, ql, lo, hi] =>
    if half qh ql = Config.quantity then
      if f = Config.fcReadHolding then .ok (.rdreqHolding id (half ah al) lo hi)
      else if f = Config.fcReadInput then .ok (.rdreqInput id (half ah al) lo hi)
      else .error .notARequestFrame
    else .error .notARequestFrame
  | [id, f, ah, al, qh, ql, n, vh, vl, lo, hi] =>
    if f = Config.fcWrite ∧ half qh ql = Config.quantity ∧ n = Config.writeByteCount then
      .ok (.wrreq id (half ah al) (half vh vl) lo hi)
    else .error .notARequestFrame
  | _ => .error .notARequestFrame

/-- The bytes after the declared count of a read response: data, then the two checksum bytes, which are always the last
two (rule R98). -/
def splitChecksum (rest : List Byte) : Option (List Byte × Byte × Byte) :=
  match rest.reverse with
  | hi :: lo :: data => some (data.reverse, lo, hi)
  | _ => none

/-- A frame the block receives: byte 1 alone tells the kind (rule R98); the declared count is not validated
(rule R94). -/
def decodeReceived (bytes : List Byte) : Except Reject Instr :=
  match bytes with
  | id :: f :: n :: rest =>
    if f = Config.fcWrite then
      match rest with
      | [al, qh, ql, lo, hi] => .ok (.wrrsp id (half n al) (half qh ql) lo hi)
      | _ => .error .notAResponseFrame
    else
      match splitChecksum rest with
      | some (data, lo, hi) =>
        if f = Config.fcReadHolding then .ok (.rdrspHolding id n data lo hi)
        else if f = Config.fcReadInput then .ok (.rdrspInput id n data lo hi)
        else .error .notAResponseFrame
      | none => .error .notAResponseFrame
  | _ => .error .notAResponseFrame

/-- The decoder. -/
def decode : Code → Except Reject Instr
  | .command cmd ext => decodeCommand cmd ext
  | .sent bytes => decodeSent bytes
  | .received bytes => decodeReceived bytes

/-- The encoder; the internal operations are not encoded in bits (30_encoding.md rule R90, opcode_table.json). -/
def encode : Instr → Option Code
  | .rdreqHolding id addr lo hi => some (.sent (readRequestFrame id Config.fcReadHolding addr lo hi))
  | .rdreqInput id addr lo hi => some (.sent (readRequestFrame id Config.fcReadInput addr lo hi))
  | .wrreq id addr value lo hi => some (.sent (writeRequestFrame id addr value lo hi))
  | .rdrspHolding id n data lo hi => some (.received (readResponseFrame id Config.fcReadHolding n data lo hi))
  | .rdrspInput id n data lo hi => some (.received (readResponseFrame id Config.fcReadInput n data lo hi))
  | .wrrsp id addr qty lo hi => some (.received (writeResponseFrame id addr qty lo hi))
  | .init port baud rxCap pinDe pinRe pinTx pinRx =>
    some (.command (cmdWord (initArg port baud pinDe pinRe pinTx) 0) (initExt rxCap pinRx))
  | .setBaudrate baud => some (.command (cmdWord (baudArg baud) 1) 0)
  | .flush => some (.command (cmdWord 0 2) 0)
  | .request id f addr => some (.command (cmdWord (requestArg id f addr) 3) 0)
  | .set id addr value => some (.command (cmdWord (setArg id addr value) 4) 0)
  | .checksum _ => none
  | .setTransmit _ => none
  | .tFlush => none
  | .tAvailable => none
  | .tWrite _ => none
  | .tReadResponse => none
  | .buildReadRequest _ _ _ => none
  | .buildWriteRequest _ _ _ => none
  | .decodeResponse _ => none
  | .guardTime => none
  | .transact => none

/-! ## Pseudo-operations (rule R116): exact abbreviations of a host command -/

/-- `READ_HOLDING id, address`. -/
def readHolding (unitId : Byte) (addr : Half) : Instr := .request unitId Config.fcReadHolding addr

/-- `READ_INPUT id, address`. -/
def readInput (unitId : Byte) (addr : Half) : Instr := .request unitId Config.fcReadInput addr

/-- `WRITE_SINGLE id, address, value`. -/
def writeSingle (unitId : Byte) (addr value : Half) : Instr := .set unitId addr value

/-! ## Words numbered as spec/opcode_table.json numbers them (log entry 12) -/

/-- The `k` bytes of `w`, the first one in bits 7 to 0. -/
def bytesOf : Nat → Nat → List Byte
  | 0, _ => []
  | k + 1, w => BitVec.ofNat 8 w :: bytesOf k (w / 256)

/-- Whether a decoder accepts. -/
def accepts (r : Except Reject Instr) : Bool :=
  match r with
  | .ok _ => true
  | .error _ => false

/-- A byte sequence as a frame sent, else as a frame received. -/
def frameCode (bytes : List Byte) : Option Code :=
  if accepts (decodeSent bytes) then some (.sent bytes)
  else if accepts (decodeReceived bytes) then some (.received bytes)
  else none

/-- The code whose bits are `w`. A command word is bits 66 to 0, with the side port above it. A frame's first byte is
bits 7 to 0; where that reading is no frame, the pattern string is read as one number, its leftmost byte first. -/
def tableCode (nbits w : Nat) : Option Code :=
  if nbits = 67 ∨ nbits = 72 ∨ nbits = 107 ∨ nbits = 112 then
    some (.command (BitVec.ofNat 67 w) (BitVec.ofNat 40 (w / 2 ^ 67)))
  else if nbits = 56 ∨ nbits = 64 ∨ nbits = 88 then
    match frameCode (bytesOf (nbits / 8) w) with
    | some c => some c
    | none => frameCode (bytesOf (nbits / 8) w).reverse
  else none

/-- The instruction the decoder reads from the bits `w` of a table row of `nbits` bits. -/
def decodeTableWord (nbits w : Nat) : Option Instr :=
  match tableCode nbits w with
  | some c =>
    match decode c with
    | .ok i => some i
    | .error _ => none
  | none => none

end Sys2Proof
end

