-- ==== Sys2Proof/Machine/Fetch.lean ====
section
/-! DEFINITION. How the next thing to do reaches the block: the host's stimuli in order (10_state.md rule R43, "the host's
sequence of commands is an input"; log entry 3), and placing an encoded instruction there. -/

namespace Sys2Proof.Machine

open Sys2Proof

/-- What one step finds to do. -/
inductive Fetched where
  /-- An instruction, and the state with its stimulus consumed. -/
  | instr (i : Instr) (s : State)
  /-- No instruction to execute: the state this leaves. -/
  | settled (s : State)
  /-- A presented code that is no instruction. -/
  | rejected (r : Refusal)
deriving DecidableEq, Repr

/-- A presented code that the decoder reads no instruction from. A command word with a reserved op code is refused
(30_encoding.md rule R110), but while BUSY = 1 no command word is accepted, whatever it is (rule R103). Bytes the block does
not build are not sent (60_exceptions.md rule R283, 93_implementation_defined.md U13). Bytes from the line arrive, whatever
they are (20_memory.md rule R72, U20). -/
def fetchOther (c : Code) (s : State) : Fetched :=
  match c with
  | .command _ _ => if s.busy then .settled s else .rejected (.notAnInstruction "reserved op code")
  | .sent _ => .rejected .notABuiltFrame
  | .received bytes => .settled (receiveFrame bytes s)

/-- A presented code. -/
def fetchCode (c : Code) (s : State) : Fetched :=
  match decode c with
  | .ok i => .instr i s
  | .error _ => fetchOther c s

/-- The next stimulus. With none left the host presents nothing and time passes. -/
def fetch (s : State) : Fetched :=
  match s.inputs with
  | [] => .settled (environment s)
  | .idle :: rest => .settled (environment (setInputs rest s))
  | .reset :: rest => .settled (applyReset (setInputs rest s))
  | .present c :: rest => fetchCode c (setInputs rest s)

/-- The bits `w` of a table row of `nbits` bits, placed as the next stimulus; bits that are no row's are placed as bytes to
send, which the decoder rejects. -/
def placeWord (s : State) (nbits w : Nat) : State :=
  match tableCode nbits w with
  | some c => setInputs (.present c :: s.inputs) s
  | none => setInputs (.present (.sent (bytesOf (nbits / 8) w)) :: s.inputs) s

end Sys2Proof.Machine
end

