-- ==== Sys2Proof/Machine/Step.lean ====
section
/-! DEFINITION. One step: what the next stimulus brings, an instruction run from acceptance to its end. -/

namespace Sys2Proof.Machine

open Sys2Proof

/-- One step of the machine at the level of operations (00_scope.md rule R8; log entry 3). -/
def step (s : State) : Host.Outcome State Fault Refusal :=
  match fetch s with
  | .instr i s' => exec i s'
  | .settled s' => .next s'
  | .rejected r => .refused r

/-- `s` with the instruction whose bits are `w` as its next stimulus. -/
def State.withFetchWord (s : State) (nbits w : Nat) : State := placeWord s nbits w

end Sys2Proof.Machine
end

