-- ==== Sys2Proof/Safety.lean ====
section
/-! DEFINITION. What the claims are said in: the invariant of the machine, the discipline of the actions on the
environment, the transitions of the sequencer, counts and bounds over a trace. -/

namespace Sys2Proof.Machine

open Sys2Proof

/-- The actions of a list of trace entries (44_transaction_manager.md rule R230). -/
def tokens (l : List TraceEntry) : List Token := l.map TraceEntry.tok

/-- Whether an action hands a frame to the channel. -/
def isTx : Token → Bool
  | .tx _ => true
  | .line _ => false
  | .guard _ => false
  | .flush => false
  | .txwait => false
  | .count _ => false
  | .yield _ => false
  | .rx _ => false
  | .configure _ => false
  | .finished _ => false

/-- Whether an action belongs to a response read (42_serial_transport.md rule R166). -/
def isPolling : Token → Bool
  | .count _ => true
  | .yield _ => true
  | .rx _ => true
  | .line _ => false
  | .guard _ => false
  | .flush => false
  | .tx _ => false
  | .txwait => false
  | .configure _ => false
  | .finished _ => false

/-- How many frames were handed to the channel. -/
def framesSent (l : List TraceEntry) : Nat := (tokens l).countP isTx

/-- The bytes written to the channel so far, in order: those on the line, then those still pending
(20_memory.md rules R65, R70). -/
def written (c : Channel) : List Byte := c.txLine.map Prod.fst ++ c.txPend

/-- The failing polls of a response read, with the counts they saw (rule R166): a count, then the wait. -/
def failedPolls (counts : List Nat) : List Token :=
  counts.flatMap fun k => [.count k, .yield Config.pollInterval]

/-- The transmit part of one attempt (44_transaction_manager.md rule R216) as a trace. -/
def transmitTokens (guardUs : Word) (frame : List Byte) : List Token :=
  [.line true, .guard guardUs, .flush, .tx frame, .txwait, .guard guardUs, .line false]

/-- One attempt of a transaction as its trace shows it: the counts of the polls that saw too few bytes, and, where a poll
saw enough, its count and the bytes read. -/
structure AttemptRecord where
  counts : List Nat
  read : Option (Nat × List Byte)
deriving DecidableEq, Repr

/-- The await part of one attempt as a trace (42_serial_transport.md rule R166). -/
def answerTokens (a : AttemptRecord) : List Token :=
  failedPolls a.counts ++
    match a.read with
    | none => []
    | some (c, got) => [.count c, .rx got]

/-- The trace of one attempt (44_transaction_manager.md rule R216, 42_serial_transport.md rule R166). -/
def attemptTokens (guardUs : Word) (frame : List Byte) (a : AttemptRecord) : List Token :=
  transmitTokens guardUs frame ++ answerTokens a

/-- The bounds of a response read (rules R165 to R168): ten failing polls and no read, or fewer than ten and one read of 6
to 16 bytes after a poll that saw more than 5. -/
def legalAttempt (a : AttemptRecord) : Prop :=
  (∀ c ∈ a.counts, c ≤ Config.rxThreshold) ∧
    match a.read with
    | none => a.counts.length = Config.pollCount
    | some (c, got) => a.counts.length < Config.pollCount ∧ Config.rxThreshold < c ∧ Config.rxThreshold < got.length ∧
        got.length ≤ Config.readMax

/-- An attempt gives this outcome: "no response" where nothing was read, else what the bytes read decode to, whatever the
numbers of the free values are (rules R216, R188). -/
def explains (o : ResponseOutcome) (a : AttemptRecord) : Prop :=
  match a.read with
  | none => o = .noResponse
  | some (_, got) => ∃ base, o = decodeBytes base got

/-- What an attempt leaves in the response buffer and the checksum register (60_exceptions.md rule R281, 43_frame_codec.md
rule R188): the bytes its read returned, and their checksum but for the last two; nothing received where it read nothing. -/
def leavesResponse (a : AttemptRecord) (t : State) : Prop :=
  match a.read with
  | none => t.rxLen = 0
  | some (_, got) => rxFrame t = got ∧ t.crcAcc = checksum (got.take (got.length - 2))

/-- The trace of a whole exchange from its frame to the state `t` with outcome `o` (44_transaction_manager.md rules R216, R217, R219, R220,
R223, R232): each attempt sends the same frame; every attempt before the last was a checksum failure; the last explains the
outcome, and what it read is what the state `t` at the end holds; a checksum failure ends the exchange only at the third; a
value ends with the switch to transmit mode. The attempts are counted in `t`, the guard time is the one `t` holds. -/
def ExchangeTrace (t : State) (frame : List Byte) (o : ResponseOutcome) (toks : List Token) : Prop :=
  ∃ atts : List AttemptRecord, atts.length = t.attempt.toNat ∧ 1 ≤ atts.length ∧ atts.length ≤ Config.maxAttempts ∧
    (∀ a ∈ atts, legalAttempt a) ∧ (∀ a ∈ atts.dropLast, explains .checksumError a) ∧
    (∃ a, atts.getLast? = some a ∧ explains o a ∧ leavesResponse a t) ∧
    (o = .checksumError → atts.length = Config.maxAttempts) ∧
    toks = (atts.map (attemptTokens t.guardUs frame)).flatten ++ if isValue o then [.line true] else []

/-- The slots of an attempt that a slave answers with `r`, complete before the first poll, and nothing else happens: three
slots before the write, two after it, the answer, and the two of the read (20_memory.md rules R68, R72). -/
def answerSlots (r : List Byte) : List Slot :=
  List.replicate 5 Slot.quiet ++ [⟨r.map fun b => .arrive b .keep, 0⟩] ++ List.replicate 2 Slot.quiet

/-- The slots of an attempt in which nothing happens at all: the five of the transmit step, one before the polls, and one
for each of the ten poll waits. -/
def silentSlots : List Slot := List.replicate 16 Slot.quiet

/-- The slot between the last action of an exchange and the end of its host command; TRANSACT alone has none. -/
def endSlots (i : Instr) : List Slot := if i = .transact then [] else [Slot.quiet]

/-- The channel is at `d` after nothing but environment steps from `c`, any number of them, in line mode `txMode`
(20_memory.md rule R72). -/
def EnvironmentActed (txMode : Bool) (c d : Channel) : Prop :=
  ∃ events : List ChannelEvent, d = events.foldl (channelStep txMode) c

/-- An endless run of the machine. -/
def IsRun (run : Nat → State) : Prop := ∀ n, step (run n) = .next (run (n + 1))

/-- Weak fairness of step (b) of rule R72, "a pending byte is eventually sent": where bytes are pending from some moment of
the run on for ever, one is sent after it. A premise of claims about endless runs; no step is bound by it. -/
def WeaklyFair (run : Nat → State) : Prop :=
  ∀ n, (∀ m, n ≤ m → (run m).chan.txPend ≠ []) → ∃ m, n ≤ m ∧ (run n).chan.txLine.length < (run m).chan.txLine.length

/-- The line mode and the sequencer state an action of a transaction stands in (20_memory.md rule R80, 44 rule R226). -/
def disciplined (e : TraceEntry) : Bool :=
  match e.tok with
  | .line true => e.txMode && (e.seq == .transmitting || e.seq == .decoded)
  | .line false => !e.txMode && e.seq == .lineSwitchDelay
  | .guard _ => e.txMode && (e.seq == .transmitting || e.seq == .lineSwitchDelay)
  | .flush => e.txMode && e.seq == .transmitting
  | .tx _ => e.txMode && e.seq == .transmitting
  | .txwait => e.txMode && e.seq == .transmitting
  | .count _ => !e.txMode && e.seq == .awaitingResponse
  | .yield _ => !e.txMode && e.seq == .awaitingResponse
  | .rx _ => !e.txMode && e.seq == .awaitingResponse
  | .configure _ => false
  | .finished _ => e.seq == .idle

/-- The transitions of SEQ that 44_transaction_manager.md rule R226 lists. -/
def seqEdge : SeqState → SeqState → Bool
  | .idle, .transmitting => true
  | .transmitting, .lineSwitchDelay => true
  | .lineSwitchDelay, .awaitingResponse => true
  | .awaitingResponse, .idle => true
  | .awaitingResponse, .validating => true
  | .validating, .decoded => true
  | .decoded, .idle => true
  | .validating, .idle => true
  | .validating, .retry => true
  | .retry, .transmitting => true
  | .validating, .exhausted => true
  | .exhausted, .idle => true
  | _, _ => false

/-- SEQ goes through these states, each transition one of the table's. -/
def SeqPath (l : List SeqState) : Prop := l.IsChain fun a b => seqEdge a b = true

/-- An upper bound of the time an action waits, in microseconds (60_exceptions.md rule R284). -/
def waitBound : Token → Nat
  | .guard us => us.toNat
  | .txwait => Config.txDoneWait
  | .yield units => units * Config.tUnit
  | .rx _ => Config.readTimeout
  | .line _ => 0
  | .flush => 0
  | .tx _ => 0
  | .count _ => 0
  | .configure _ => 0
  | .finished _ => 0

/-- The same for a list of actions. -/
def totalWait (l : List TraceEntry) : Nat := ((tokens l).map waitBound).sum

/-- The worst case of rule R228: three attempts, each with two guard waits, a completion wait, a full response wait and a
read time-out. -/
def worstCaseWait (guardUs : Word) : Nat :=
  Config.maxAttempts * (2 * guardUs.toNat + Config.txDoneWait + Config.pollCount * Config.pollInterval * Config.tUnit
    + Config.readTimeout)

/-- The operations that run an exchange, each from a state in which it runs one, with the frame it sends: REQUEST for a
supported function (44_transaction_manager.md rule R222), SET (rule R225), TRANSACT on its own (rule R215), and the three
request frames, each the frame its transaction sends (30_encoding.md rules R92, R93, log entry 6). -/
inductive Exchanging : Instr → State → List Byte → Prop where
  | request (unitId function : Byte) (addr : Half) (s : State) (hb : s.busy = false) (hi : s.initialised = true)
      (hf : function = 3 ∨ function = 4) :
      Exchanging (.request unitId function addr) s (withChecksum (readRequestBody unitId function addr))
  | set (unitId : Byte) (addr value : Half) (s : State) (hb : s.busy = false) (hi : s.initialised = true) :
      Exchanging (.set unitId addr value) s (withChecksum (writeRequestBody unitId addr value))
  | transact (s : State) : Exchanging .transact s (txFrame s)
  | rdreqHolding (unitId : Byte) (addr : Half) (lo hi : Byte) (s : State) (hb : s.busy = false) (hi' : s.initialised = true)
      (hc : wellFormed (.rdreqHolding unitId addr lo hi) = true) :
      Exchanging (.rdreqHolding unitId addr lo hi) s (readRequestFrame unitId 3 addr lo hi)
  | rdreqInput (unitId : Byte) (addr : Half) (lo hi : Byte) (s : State) (hb : s.busy = false) (hi' : s.initialised = true)
      (hc : wellFormed (.rdreqInput unitId addr lo hi) = true) :
      Exchanging (.rdreqInput unitId addr lo hi) s (readRequestFrame unitId 4 addr lo hi)
  | wrreq (unitId : Byte) (addr value : Half) (lo hi : Byte) (s : State) (hb : s.busy = false) (hi' : s.initialised = true)
      (hc : wellFormed (.wrreq unitId addr value lo hi) = true) :
      Exchanging (.wrreq unitId addr value lo hi) s (writeRequestFrame unitId addr value lo hi)

/-- The outcome stands in OUTCOME (10_state.md rule R34); the value counts only where the tag is Value. -/
def holdsOutcome (t : State) (o : ResponseOutcome) : Prop := t.outTag = tagOf o ∧ ∀ v, o = .value v → t.outValue = v

/-- Where an exchange reports its outcome: TRANSACT hands it back, the others end with finish (rule R221). -/
def Reports (i : Instr) (t : State) (o : ResponseOutcome) : Prop :=
  if i = .transact then t.result = .outcome o else holdsOutcome t o

/-- The actions of an exchange after TRANSACT's own: the END of a host command (rule R230). -/
def endTokens (i : Instr) (o : ResponseOutcome) : List Token := if i = .transact then [] else [.finished o]

/-- What it is to receive bytes from the line in state `s` with result `r` (rules R60, R66, R72, 44 rule R216, 43 rule R188;
log entries 6 and 9): while no response is awaited they arrive in RXQ, at its end where there is room, and nothing else
happens. While one is awaited the polls, the one read and the decode follow, and the outcome is the one the bytes read give;
where the bytes stand alone in RXQ and nothing else happens, the bytes read are the first 16 of them. -/
structure Receives (bytes : List Byte) (s : State) (r : Host.Outcome State Fault Refusal) : Prop where
  unawaited : s.seq ≠ .awaitingResponse → ∃ t : State, r = .next t ∧
    t = { s with chan := { s.chan with rxq := t.chan.rxq }, fresh := t.fresh } ∧
    (s.chan.rxq.length + bytes.length ≤ rxCapacity s.chan → t.chan.rxq = s.chan.rxq ++ bytes)
  awaited : s.seq = .awaitingResponse →
    ∃ (t : State) (o : ResponseOutcome) (a : AttemptRecord) (new : List TraceEntry), r = .next t ∧
      t.result = .outcome o ∧ t.trace = s.trace ++ new ∧ tokens new = answerTokens a ∧ legalAttempt a ∧ explains o a ∧
      leavesResponse a t ∧ written t.chan = written s.chan ∧ t.chan.settings = s.chan.settings ∧
      t = { s with
        seq := t.seq, poll := t.poll, rxb := t.rxb, rxLen := t.rxLen, crcAcc := t.crcAcc, chan := t.chan,
        script := t.script, fresh := t.fresh, result := t.result, trace := t.trace, seqLog := t.seqLog }
  alone : ∀ rest : List Slot, s.seq = .awaitingResponse → s.chan.rxq = [] → bytes.length ≤ rxCapacity s.chan →
    6 ≤ bytes.length → s.script = Slot.quiet :: Slot.quiet :: Slot.quiet :: rest →
    ∃ (t : State) (base : Nat), r = .next t ∧ rxFrame t = bytes.take 16 ∧ t.rxLen = min bytes.length 16 ∧
      t.result = .outcome (decodeBytes base (bytes.take 16)) ∧ t.seq = .validating

/-- Every other pin than the two direction pins keeps its level (41_line_direction.md rule R151). -/
def otherPinsKept (s t : State) : Prop :=
  ∀ p, p ≠ s.cfg.pinDe.toNat → p ≠ s.cfg.pinRe.toNat → pinLevel t.gpio p = pinLevel s.gpio p

/-- Both direction pins stand at the level of the line mode (10_state.md rule R28). -/
def pinsFollowLine (t : State) : Prop :=
  pinLevel t.gpio t.cfg.pinDe.toNat = some t.txMode ∧ pinLevel t.gpio t.cfg.pinRe.toNat = some t.txMode

/-- The values the spec gives the registers at reset (10_state.md rule R42, 70_reset_and_hazards.md rule R301). -/
def AtReset (t : State) : Prop :=
  t.initialised = false ∧ t.busy = false ∧ t.seq = .idle ∧ t.txMode = false ∧ t.attempt = 0 ∧ t.poll = 0 ∧
    t.txLen = 0 ∧ t.rxLen = 0 ∧ t.rspValid = false

/-- The invariant of the machine between operations: idle and not busy (10_state.md rule R30), counters and lengths in
range (rules R32, R35, R36), pin levels in canonical form; once initialised, a legal configuration (rules R22, R23), the
channel set to it (20_memory.md rule R73) and both direction pins at the level of the line mode (10_state.md rule R28);
before that, receive mode and an unconfigured channel (70_reset_and_hazards.md rule R302). -/
structure MachineInv (s : State) : Prop where
  notBusy : s.busy = false
  seqIdle : s.seq = .idle
  pollBound : s.poll.toNat ≤ Config.pollCount
  txLenLegal : s.txLen = 0 ∨ s.txLen = Config.readReqLen ∨ s.txLen = Config.writeReqLen
  rxLenBound : s.rxLen ≤ Config.readMax
  gpioWf : GpioWf s.gpio
  whenReady : s.initialised = true → legalConfiguration s.cfg.baud s.cfg.rxCap = true ∧
    s.chan.settings = some (settingsOf s.cfg) ∧
    pinLevel s.gpio s.cfg.pinDe.toNat = some s.txMode ∧ pinLevel s.gpio s.cfg.pinRe.toNat = some s.txMode
  beforeReady : s.initialised = false → s.txMode = false ∧ s.chan.settings = none

end Sys2Proof.Machine
end

