-- ==== Sys2Proof/Certificates/Slice0/Obligations.lean ====
section
/-! DEFINITION. The statements for the provers, family by family: encodings, the step, reset and the invariant, the
checksum, the line, the transport, the codec, the wire frames, the host's configuration commands, the exchanges. -/

section Slice0Obligations

open Sys2Proof Sys2Proof.Machine

/-! ## Encodings -/

/-- 30_encoding.md rules R92 to R95 and R105 to R109: no field of an encoded instruction is lost. -/
def Obligations.EncodedInstructionsDecodeBack : Prop :=
  ∀ (i : Instr) (c : Code), encode i = some c → decode c = .ok i

/-- 30_encoding.md rule R110: op codes 5 to 7 are refused, and the ignored bits of `arg`, and the side port of every
command but INIT, have no effect. -/
def Obligations.ReservedOpcodesAndIgnoredBits : Prop :=
  ∀ (cmd cmd' : BitVec 67) (ext ext' : BitVec 40), cmdOp cmd = cmdOp cmd' →
    (5 ≤ (cmdOp cmd).toNat → ∀ (s : State) (rest : List Input), s.busy = false →
      s.inputs = .present (.command cmd ext) :: rest → step s = .refused (.notAnInstruction "reserved op code")) ∧
    (cmdOp cmd = 1 → (cmdArg cmd).extractLsb' 0 32 = (cmdArg cmd').extractLsb' 0 32 →
      decode (.command cmd ext) = decode (.command cmd' ext')) ∧
    (cmdOp cmd = 2 → decode (.command cmd ext) = decode (.command cmd' ext')) ∧
    (cmdOp cmd = 3 → (cmdArg cmd).extractLsb' 0 32 = (cmdArg cmd').extractLsb' 0 32 →
      decode (.command cmd ext) = decode (.command cmd' ext')) ∧
    (cmdOp cmd = 4 → (cmdArg cmd).extractLsb' 0 8 = (cmdArg cmd').extractLsb' 0 8 →
      (cmdArg cmd).extractLsb' 16 32 = (cmdArg cmd').extractLsb' 16 32 →
      decode (.command cmd ext) = decode (.command cmd' ext'))

/-- 95_test_vectors.md parts 2.4, 2.5, 2.9: words and frames written out there decode to what they stand for. -/
def Obligations.WordsOfTheSpecDecode : Prop :=
  decode (.command 0x0000000000050180B 0) = .ok (.request 1 3 10) ∧
  decode (.command 0x0000001500028000C 0) = .ok (.set 1 5 42) ∧
  decode (.command 0x000000000000E1001 0) = .ok (.setBaudrate 115200) ∧
  decode (.command 0x00000000000000002 0) = .ok .flush ∧
  decode (.command 0x08828201000012C00 0x0000010010) = .ok (.init 2 9600 256 4 5 17 16) ∧
  decode (.sent [0x01, 0x03, 0x00, 0x0A, 0x00, 0x01, 0xA4, 0x08]) = .ok (.rdreqHolding 1 10 0xA4 0x08) ∧
  decode (.sent [0x02, 0x10, 0x12, 0x34, 0x00, 0x01, 0x02, 0xAB, 0xCD, 0x3A, 0x70]) =
    .ok (.wrreq 2 0x1234 0xABCD 0x3A 0x70) ∧
  decode (.received [0x01, 0x04, 0x02, 0x01, 0x2C, 0xB9, 0x7D]) = .ok (.rdrspInput 1 2 [0x01, 0x2C] 0xB9 0x7D)

/-! ## The step -/

/-- 00_scope.md rule R8; the form of a step is log entry 3: a presented code that decodes is run by `exec`, its stimulus
consumed. -/
def Obligations.StepRunsThePresentedInstruction : Prop :=
  ∀ (s : State) (c : Code) (i : Instr) (rest : List Input),
    s.inputs = .present c :: rest → decode c = .ok i → step s = exec i (setInputs rest s)

/-- 20_memory.md rule R72, log entries 2 and 3: with no command presented only the environment acts: it loses no written byte and changes no
order, it takes nothing from TXLINE, it shortens no queue, and it touches no register; and in an endless run of such steps
that is weakly fair every byte pending at its start is sent, in order. -/
def Obligations.IdleStepIsTheEnvironmentsAlone : Prop :=
  (∀ s : State, (s.inputs = [] ∨ ∃ rest, s.inputs = .idle :: rest) →
    ∃ t : State, step s = .next t ∧
      t = { s with chan := t.chan, script := t.script, fresh := t.fresh, inputs := s.inputs.tail } ∧
      t.chan.settings = s.chan.settings ∧ written t.chan = written s.chan ∧ s.chan.txLine <+: t.chan.txLine ∧
      s.chan.rxq.length ≤ t.chan.rxq.length) ∧
  (∀ run : Nat → State, IsRun run → (∀ x ∈ (run 0).inputs, x = .idle) → WeaklyFair run →
    ∃ n, (run n).chan.txPend = [] ∧ (run n).chan.txLine.map Prod.fst = written (run 0).chan)

/-! ## Reset and the invariant -/

/-- 70_reset_and_hazards.md rule R301: the values the spec gives the registers at reset. -/
def Obligations.ResetValues : Prop := AtReset State.reset ∧ cmdReady State.reset = true

/-- 70_reset_and_hazards.md rule R302: `rst` gives every register its reset value and leaves the environment as it is, but
for the channel, which is unconfigured until INIT. That a pin keeps the level last written is log entry 15's choice (pins are the
driver's, the outputs DE and RE are LINE.TX_MODE), with the values of log entry 1; the stimulus form is log entry 3. -/
def Obligations.ResetInputResetsRegistersNotTheEnvironment : Prop :=
  ∀ (s : State) (rest : List Input), s.inputs = .reset :: rest →
    ∃ t : State, step s = .next t ∧ AtReset t ∧ t.chan = { s.chan with settings := none } ∧ t.gpio = s.gpio ∧
      t.inputs = rest

/-- The invariant of the machine holds at reset. -/
def Obligations.InvariantHoldsAtReset : Prop := MachineInv State.reset

/-- Every step keeps the invariant: idle and not busy between operations, counters and lengths in range, pin levels in
canonical form, a legal configuration with the channel set to it and both direction pins at the line mode. -/
def Obligations.InvariantKeptByEveryStep : Prop := ∀ s t : State, MachineInv s → step s = .next t → MachineInv t

/-- 10_state.md rule R27: only INIT writes the configuration, and SET_BAUDRATE its baud rate. -/
def Obligations.ConfigurationChangesOnlyByInitAndSetBaudrate : Prop :=
  ∀ (i : Instr) (s t : State), exec i s = .next t →
    (t.cfg = s.cfg ∧ t.initialised = s.initialised) ∨
    (∃ p b c de re tx rx, i = .init p b c de re tx rx ∧ t.cfg = ⟨p, b, c, de, re, tx, rx⟩ ∧ t.initialised = true) ∨
    (∃ b, i = .setBaudrate b ∧ t.cfg = { s.cfg with baud := b } ∧ t.initialised = s.initialised)

/-- 41_line_direction.md rule R153: only the exchanges (a request frame runs one, log entry 6), INIT and SET_TRANSMIT itself touch
the line. -/
def Obligations.LineChangesOnlyWhereSetTransmitIsInvoked : Prop :=
  ∀ (i : Instr) (s t : State), exec i s = .next t →
    (t.txMode = s.txMode ∧ t.gpio = s.gpio) ∨ i = .transact ∨ (∃ b, i = .setTransmit b) ∨
    (∃ frame, encode i = some (.sent frame)) ∨
    (∃ id f a, i = .request id f a ∧ (f = 3 ∨ f = 4)) ∨ (∃ id a v, i = .set id a v) ∨
    (∃ p b c de re tx rx, i = .init p b c de re tx rx)

/-! ## The Checksum Engine -/

/-- 40_checksum.md rule R131: CHECKSUM writes `CRC_ACC` alone; it starts from the seed and takes the bytes in order, each
through the table. -/
def Obligations.ChecksumTakesTheBytesInOrder : Prop :=
  (∀ (bytes : List Byte) (s : State), exec (.checksum bytes) s = .next { s with crcAcc := checksum bytes }) ∧
  checksum [] = 0xFFFF ∧
  ∀ (bytes : List Byte) (b : Byte), checksum (bytes ++ [b]) =
    (checksum bytes >>> 8) ^^^ (crcTable[(lo8 (checksum bytes ^^^ b.zeroExtend 16)).toNat]?).getD 0

/-- 40_checksum.md rules R131, R132, R133: the table has 256 entries, each generated by the bit-serial form, those the spec
prints; and, as the spec derives, the two forms of CHECKSUM give the same result for every input. -/
def Obligations.TableAndBitSerialFormsAgree : Prop :=
  crcTable.length = 256 ∧ (∀ i : Byte, crcTable[i.toNat]? = some (crcEightBits (i.zeroExtend 16))) ∧
  crcTable = crcTablePrinted ∧ ∀ bytes : List Byte, checksum bytes = checksumBitSerial bytes

/-- 40_checksum.md rule R135 (c): appending the checksum leaves the high byte, then 0. -/
def Obligations.AppendedChecksumLeavesZero : Prop :=
  ∀ m : List Byte, checksum (m ++ [lo8 (checksum m)]) = (hi8 (checksum m)).zeroExtend 16 ∧
    checksum (m ++ [lo8 (checksum m), hi8 (checksum m)]) = 0

/-- 40_checksum.md rule R135 (c): running all bytes and comparing with 0 gives the verdict of CRC_VALID. -/
def Obligations.ValidityIsAZeroResidue : Prop :=
  ∀ bytes : List Byte, 2 ≤ bytes.length → (crcValid bytes = true ↔ checksum bytes = 0)

/-- 70_reset_and_hazards.md rule R318, 40_checksum.md rule R138: every single-byte corruption of a valid frame, of any
length, is detected. -/
def Obligations.SingleByteCorruptionIsDetected : Prop :=
  ∀ (bytes : List Byte) (k : Nat) (b old : Byte), crcValid bytes = true → bytes[k]? = some old → b ≠ old →
    crcValid (bytes.set k b) = false

/-- 70_reset_and_hazards.md rule R317: any number of trailing zero bytes keeps a valid frame valid. -/
def Obligations.TrailingZerosKeepAFrameValid : Prop :=
  ∀ (bytes : List Byte) (n : Nat), crcValid bytes = true → crcValid (bytes ++ List.replicate n 0) = true

/-! ## The Line Direction Controller -/

/-- 41_line_direction.md rule R151: SET_TRANSMIT writes the line mode and both pins in one action, touches no other pin and
no other register, and never fails. -/
def Obligations.SetTransmitDrivesBothPinsTogether : Prop :=
  ∀ (b : Bool) (s : State), ∃ t : State, exec (.setTransmit b) s = .next t ∧
    t.txMode = b ∧ deOutput t = b ∧ reOutput t = b ∧ pinsFollowLine t ∧ otherPinsKept s t ∧
    t = { s with txMode := b, gpio := t.gpio, trace := s.trace ++ [⟨.line b, s.seq, b, s.attempt⟩] }

/-- 41_line_direction.md rule R152: called with the mode already held, SET_TRANSMIT changes no level. -/
def Obligations.SetTransmitIsIdempotent : Prop :=
  ∀ s : State, GpioWf s.gpio → pinsFollowLine s →
    exec (.setTransmit s.txMode) s =
      .next { s with trace := s.trace ++ [⟨.line s.txMode, s.seq, s.txMode, s.attempt⟩] }

/-! ## The Serial Transport -/

/-- 42_serial_transport.md rule R160: T_FLUSH empties RXQ; no register, RXB and RX_LEN among them, and nothing pending is
touched. -/
def Obligations.TFlushEmptiesTheReceiveQueue : Prop :=
  ∀ s : State, exec .tFlush s = .next { s with
    chan := { s.chan with rxq := [] }, trace := s.trace ++ [⟨.flush, s.seq, s.txMode, s.attempt⟩] }

/-- 42_serial_transport.md rule R161, 20_memory.md rule R67: T_AVAILABLE returns the length of RXQ and changes nothing; that the
count stands in the model's result field is log entry 9. -/
def Obligations.TAvailableReturnsTheBufferedCount : Prop :=
  ∀ s : State, exec .tAvailable s = .next { s with
    result := .count s.chan.rxq.length,
    trace := s.trace ++ [⟨.count s.chan.rxq.length, s.seq, s.txMode, s.attempt⟩] }

/-- 42_serial_transport.md rule R163: T_WRITE flushes, writes the bytes and waits, in this order; earlier input has no
influence on anything that follows; no register is written. -/
def Obligations.TWriteFlushesWritesAndWaits : Prop :=
  ∀ (bytes : List Byte) (s : State), ∃ t : State, exec (.tWrite bytes) s = .next t ∧
    t.trace = s.trace ++ [⟨.flush, s.seq, s.txMode, s.attempt⟩, ⟨.tx bytes, s.seq, s.txMode, s.attempt⟩,
      ⟨.txwait, s.seq, s.txMode, s.attempt⟩] ∧
    written t.chan = written s.chan ++ bytes ∧ t.chan.settings = s.chan.settings ∧
    (∀ q : List Byte, exec (.tWrite bytes) (setRxq q s) = .next t) ∧
    t = { s with chan := t.chan, script := t.script, fresh := t.fresh, trace := t.trace }

/-- 42_serial_transport.md rules R165 to R168: T_READ_RESPONSE polls at most ten times, each failing poll of 5 bytes or less
followed by a wait of 10 time-units, reads once and at once after the first poll of more than 5, 6 to 16 bytes into
`RXB[0 .. RX_LEN]`, and signals "no response" with RX_LEN 0 after ten failing polls. That RXB then keeps its bytes is log entry
4's choice (92_eei_decisions.md D29), the result field log entry 9's. -/
def Obligations.TReadResponseReadsOnceOrGivesUp : Prop :=
  ∀ s : State, ∃ (t : State) (counts : List Nat) (new : List TraceEntry),
    exec .tReadResponse s = .next t ∧ t.trace = s.trace ++ new ∧ (∀ c ∈ counts, c ≤ 5) ∧
    ((t.result = .gotBytes true ∧ counts.length < 10 ∧ t.poll.toNat = counts.length + 1 ∧ 6 ≤ t.rxLen ∧ t.rxLen ≤ 16 ∧
        ∃ c, 5 < c ∧ tokens new = failedPolls counts ++ [.count c, .rx (rxFrame t)]) ∨
      (t.result = .gotBytes false ∧ counts.length = 10 ∧ t.poll.toNat = 10 ∧ t.rxLen = 0 ∧ t.rxb = s.rxb ∧
        tokens new = failedPolls counts)) ∧
    written t.chan = written s.chan ∧ t.chan.settings = s.chan.settings ∧
    t = { s with
      poll := t.poll, rxb := t.rxb, rxLen := t.rxLen, chan := t.chan, script := t.script, fresh := t.fresh,
      result := t.result, trace := t.trace }

/-- 42_serial_transport.md rules R168, R170 (2), (5): more than 5 bytes buffered at the first poll, and nothing else
happening, are read at once, the first 16 of them, and the rest stays in RXQ. -/
def Obligations.BufferedResponseIsReadAtOnce : Prop :=
  ∀ (s : State) (rest : List Slot), s.script = Slot.quiet :: Slot.quiet :: rest → 5 < s.chan.rxq.length →
    ∃ t : State, exec .tReadResponse s = .next t ∧ t.result = .gotBytes true ∧ t.poll = 1 ∧
      t.rxLen = min s.chan.rxq.length 16 ∧ rxFrame t = s.chan.rxq.take 16 ∧
      t.chan = { s.chan with rxq := s.chan.rxq.drop 16 } ∧ t.script = rest ∧
      t.trace = s.trace ++ [⟨.count s.chan.rxq.length, s.seq, s.txMode, s.attempt⟩,
        ⟨.rx (s.chan.rxq.take 16), s.seq, s.txMode, s.attempt⟩]

/-- 42_serial_transport.md rules R167, R170 (1), (3): with 5 bytes or less buffered and nothing arriving, ten polls and ten
waits end in "no response", and the bytes stay in RXQ. -/
def Obligations.TooFewBytesAreNoResponse : Prop :=
  ∀ (s : State) (rest : List Slot), s.script = List.replicate 10 Slot.quiet ++ rest → s.chan.rxq.length ≤ 5 →
    ∃ (t : State) (new : List TraceEntry), exec .tReadResponse s = .next t ∧ t.result = .gotBytes false ∧
      t.poll = 10 ∧ t.rxLen = 0 ∧ t.chan = s.chan ∧ t.script = rest ∧ t.trace = s.trace ++ new ∧
      tokens new = failedPolls (List.replicate 10 s.chan.rxq.length)

/-! ## The Frame Codec -/

/-- 43_frame_codec.md rule R182: BUILD_READ_REQUEST builds the eight bytes for function 3 or 4, writes TXF, TXF_LEN and
CRC_ACC alone, and refuses any other function. That TXF[8..10] keep what they held is log entry 4's choice. -/
def Obligations.BuildReadRequestBuildsTheFrame : Prop :=
  ∀ (id f : Byte) (addr : Half) (s : State),
    ((f = 3 ∨ f = 4) → ∃ t : State, exec (.buildReadRequest id f addr) s = .next t ∧
      txFrame t = [id, f, hi8 addr, lo8 addr, 0x00, 0x01, lo8 (checksum [id, f, hi8 addr, lo8 addr, 0x00, 0x01]),
        hi8 (checksum [id, f, hi8 addr, lo8 addr, 0x00, 0x01])] ∧
      t.txLen = 8 ∧ t.crcAcc = checksum [id, f, hi8 addr, lo8 addr, 0x00, 0x01] ∧
      (∀ k : Fin 11, 8 ≤ k.val → t.txf[k] = s.txf[k]) ∧
      t = { s with txf := t.txf, txLen := t.txLen, crcAcc := t.crcAcc }) ∧
    (f ≠ 3 → f ≠ 4 → exec (.buildReadRequest id f addr) s = .refused .functionNotARead)

/-- 43_frame_codec.md rule R185: BUILD_WRITE_REQUEST builds the eleven bytes and writes TXF, TXF_LEN and CRC_ACC alone. -/
def Obligations.BuildWriteRequestBuildsTheFrame : Prop :=
  ∀ (id : Byte) (addr value : Half) (s : State), ∃ t : State,
    exec (.buildWriteRequest id addr value) s = .next t ∧
    txFrame t = [id, 0x10, hi8 addr, lo8 addr, 0x00, 0x01, 0x02, hi8 value, lo8 value,
      lo8 (checksum [id, 0x10, hi8 addr, lo8 addr, 0x00, 0x01, 0x02, hi8 value, lo8 value]),
      hi8 (checksum [id, 0x10, hi8 addr, lo8 addr, 0x00, 0x01, 0x02, hi8 value, lo8 value])] ∧
    t.txLen = 11 ∧ t.crcAcc = checksum [id, 0x10, hi8 addr, lo8 addr, 0x00, 0x01, 0x02, hi8 value, lo8 value] ∧
    t = { s with txf := t.txf, txLen := t.txLen, crcAcc := t.crcAcc }

/-- 43_frame_codec.md rule R180 with 40_checksum.md rule R136, as the spec derives: a frame with its checksum appended, low byte
first, satisfies CRC_VALID; so does every frame a build operation leaves in TXF. -/
def Obligations.BuiltFramesPassValidation : Prop :=
  (∀ body : List Byte, crcValid (withChecksum body) = true) ∧
  (∀ (id f : Byte) (addr : Half) (s t : State), exec (.buildReadRequest id f addr) s = .next t →
    crcValid (txFrame t) = true) ∧
  (∀ (id : Byte) (addr value : Half) (s t : State), exec (.buildWriteRequest id addr value) s = .next t →
    crcValid (txFrame t) = true)

/-- 43_frame_codec.md rule R188: length, then checksum, then function byte; the result, and what is written; that OUTCOME
is written by the operation run alone is log entry 9. -/
def Obligations.DecodeResponseTestsInOrder : Prop :=
  ∀ (bytes : List Byte) (s : State), ∃ (t : State) (o : ResponseOutcome),
    exec (.decodeResponse bytes) s = .next t ∧ t.result = .outcome o ∧
    (bytes.length < 4 → o = .checksumError ∧ t.crcAcc = s.crcAcc) ∧
    (4 ≤ bytes.length → t.crcAcc = checksum (bytes.take (bytes.length - 2)) ∧
      (crcValid bytes = false → o = .checksumError) ∧
      (crcValid bytes = true → ∃ f, bytes[1]? = some f ∧
        ((f = 3 ∨ f = 4) → o = .value (readPayload s.fresh bytes)) ∧
        (f = 16 → o = .value Config.writeAckValue) ∧
        (f ≠ 3 → f ≠ 4 → f ≠ 16 → o = .undecodableFunction))) ∧
    holdsOutcome t o ∧
    t = { s with
      crcAcc := t.crcAcc, outTag := t.outTag, outValue := t.outValue, fresh := t.fresh, result := t.result }

/-- 43_frame_codec.md rules R189 (a), (c), R193: payloads of 0 to 4 bytes, first byte most significant, zero-extended. -/
def Obligations.ShortPayloadsAreZeroExtended : Prop :=
  ∀ (base : Nat) (id f b0 b1 b2 b3 : Byte) (rest : List Byte),
    readPayload base (id :: f :: 0 :: rest) = 0 ∧
    (readPayload base (id :: f :: 1 :: b0 :: rest)).toNat = b0.toNat ∧
    (readPayload base (id :: f :: 2 :: b0 :: b1 :: rest)).toNat = 256 * b0.toNat + b1.toNat ∧
    (readPayload base (id :: f :: 3 :: b0 :: b1 :: b2 :: rest)).toNat =
      65536 * b0.toNat + 256 * b1.toNat + b2.toNat ∧
    readPayload base (id :: f :: 4 :: b0 :: b1 :: b2 :: b3 :: rest) = b0 ++ b1 ++ b2 ++ b3

/-- 43_frame_codec.md rule R189 (d): of a payload of four or more bytes only the last four remain. -/
def Obligations.LongPayloadsKeepTheLastFourBytes : Prop :=
  ∀ (base : Nat) (id f n b0 b1 b2 b3 : Byte) (front rest : List Byte), n.toNat = front.length + 4 →
    readPayload base (id :: f :: n :: (front ++ [b0, b1, b2, b3] ++ rest)) = b0 ++ b1 ++ b2 ++ b3

/-- 43_frame_codec.md rules R191, R194: frames that differ in the unit id alone, each with its own checksum and its declared
payload inside its data, decode alike; in a write acknowledgment nothing after the function byte is examined. -/
def Obligations.UncheckedFieldsDoNotMatter : Prop :=
  (∀ (base : Nat) (id id' f n : Byte) (data : List Byte), n.toNat ≤ data.length →
    decodeBytes base (withChecksum (id :: f :: n :: data)) = decodeBytes base (withChecksum (id' :: f :: n :: data))) ∧
  (∀ (base : Nat) (id : Byte) (rest : List Byte), crcValid (id :: 16 :: rest) = true → 2 ≤ rest.length →
    decodeBytes base (id :: 16 :: rest) = .value Config.writeAckValue)

/-- 70_reset_and_hazards.md rule R314: an echoed request decodes as a value: 0 for a read of an address below 256, the
acknowledgment value for a write. -/
def Obligations.EchoedRequestsDecodeAsValues : Prop :=
  ∀ (base : Nat) (id f : Byte) (addr value : Half),
    ((f = 3 ∨ f = 4) → addr.toNat < 256 →
      decodeBytes base (withChecksum (readRequestBody id f addr)) = .value 0) ∧
    decodeBytes base (withChecksum (writeRequestBody id addr value)) = .value Config.writeAckValue

/-! ## The wire frames -/

/-- Log entry 6 (the model's choice); 30_encoding.md rules R91 to R93, 20_memory.md rule R60, 60_exceptions.md rule R283: a
request frame is built and sent by the transaction it belongs to, once per attempt, under the conditions of the command that
runs it; a sequence with other checksum bytes is no request frame. -/
def Obligations.RequestFramesAreSent : Prop :=
  ∀ (i : Instr) (frame : List Byte) (s : State), encode i = some (.sent frame) →
    (wellFormed i = true → s.busy = false → s.initialised = true →
      ∃ (t : State) (o : ResponseOutcome), exec i s = .next t ∧ holdsOutcome t o ∧ o ≠ .unsupportedFunction ∧
        t.rspValid = true ∧ t.seq = .idle ∧ t.txMode = isValue o ∧ txFrame t = frame ∧ t.txLen = frame.length ∧
        1 ≤ t.attempt.toNat ∧ t.attempt.toNat ≤ 3 ∧
        written t.chan = written s.chan ++ (List.replicate t.attempt.toNat frame).flatten ∧
        t.chan.settings = s.chan.settings ∧
        t = { s with
          txMode := t.txMode, seq := t.seq, attempt := t.attempt, poll := t.poll, req := t.req, outTag := t.outTag,
          outValue := t.outValue, rspValid := t.rspValid, txf := t.txf, txLen := t.txLen, rxb := t.rxb, rxLen := t.rxLen,
          crcAcc := t.crcAcc, guardUs := t.guardUs, chan := t.chan, gpio := t.gpio, script := t.script, fresh := t.fresh,
          trace := t.trace, seqLog := t.seqLog }) ∧
    (wellFormed i = true → s.busy = true → exec i s = .next s) ∧
    (wellFormed i = true → s.busy = false → s.initialised = false → exec i s = .refused .notInitialised) ∧
    (wellFormed i = false → exec i s = .refused .notABuiltFrame)

/-- Log entries 6 and 9 (the model's choices); 20_memory.md rules R60, R66, R72, 44_transaction_manager.md rule R216,
43_frame_codec.md rule R188, 93_implementation_defined.md U20: a response frame arrives in RXQ, and touches nothing else while
no response is awaited; where the block awaits one, the response read and the decode follow; and so it is with any other bytes
that reach the block from the line. -/
def Obligations.ResponseFramesAreDecoded : Prop :=
  (∀ (i : Instr) (frame : List Byte) (s : State), encode i = some (.received frame) → Receives frame s (exec i s)) ∧
  (∀ (bytes : List Byte) (s : State) (rest : List Input), s.inputs = .present (.received bytes) :: rest →
    Receives bytes (setInputs rest s) (step s))

/-- 30_encoding.md rules R94, R95, 43_frame_codec.md rules R191, R193; that a frame row run as an instruction is read and
decoded where a response is awaited is log entry 6, and that its outcome stands in the model's result field log entry 9: the
responses to this block's own requests, with the right checksum, give one register's value, high byte first, or the
acknowledgment value. -/
def Obligations.ExpectedResponsesGiveTheirValue : Prop :=
  ∀ (id d0 d1 : Byte) (addr qty : Half) (s : State) (rest : List Slot), s.seq = .awaitingResponse → s.chan.rxq = [] →
    8 ≤ rxCapacity s.chan → s.script = Slot.quiet :: Slot.quiet :: Slot.quiet :: rest →
    (∃ t : State, exec (.rdrspHolding id 2 [d0, d1] (lo8 (checksum [id, 3, 2, d0, d1]))
        (hi8 (checksum [id, 3, 2, d0, d1]))) s = .next t ∧
      t.result = .outcome (.value ((d0 ++ d1).zeroExtend 32)) ∧ t.seq = .validating) ∧
    (∃ t : State, exec (.rdrspInput id 2 [d0, d1] (lo8 (checksum [id, 4, 2, d0, d1]))
        (hi8 (checksum [id, 4, 2, d0, d1]))) s = .next t ∧
      t.result = .outcome (.value ((d0 ++ d1).zeroExtend 32)) ∧ t.seq = .validating) ∧
    (∃ t : State, exec (.wrrsp id addr qty
        (lo8 (checksum [id, 16, hi8 addr, lo8 addr, hi8 qty, lo8 qty]))
        (hi8 (checksum [id, 16, hi8 addr, lo8 addr, hi8 qty, lo8 qty]))) s = .next t ∧
      t.result = .outcome (.value Config.writeAckValue) ∧ t.seq = .validating)

/-! ## INIT, SET_BAUDRATE, FLUSH -/

/-- 45_host_operations.md rules R253, R254: a first or later legal INIT stores the configuration, sets the channel to it as
8N1, puts the line in receive mode, and completes. -/
def Obligations.InitConfiguresAndReceives : Prop :=
  ∀ (port : Byte) (baud rxCap : Word) (de re tx rx : Byte) (s : State), s.busy = false → 4800 ≤ baud → 128 < rxCap →
    ∃ t : State, exec (.init port baud rxCap de re tx rx) s = .next t ∧
      t.cfg = ⟨port, baud, rxCap, de, re, tx, rx⟩ ∧ t.initialised = true ∧ t.rspValid = true ∧
      t.chan.settings = some ⟨port, baud, 8, false, 1, tx, rx, rxCap⟩ ∧ s.chan.txLine <+: t.chan.txLine ∧
      t.txMode = false ∧ pinsFollowLine t ∧
      (∀ p, p ≠ de.toNat → p ≠ re.toNat → pinLevel t.gpio p = pinLevel s.gpio p) ∧
      t.trace = s.trace ++ [⟨.configure ⟨port, baud, 8, false, 1, tx, rx, rxCap⟩, s.seq, s.txMode, s.attempt⟩,
        ⟨.line false, s.seq, false, s.attempt⟩] ∧
      t = { s with
        cfg := t.cfg, initialised := true, txMode := false, outTag := t.outTag, outValue := t.outValue,
        rspValid := true, chan := t.chan, gpio := t.gpio, script := t.script, fresh := t.fresh, trace := t.trace }

/-- 45_host_operations.md rule R252: an INIT that breaks a bound of the configuration is refused. -/
def Obligations.IllegalInitIsRefused : Prop :=
  ∀ (port : Byte) (baud rxCap : Word) (de re tx rx : Byte) (s : State), s.busy = false →
    (baud < 4800 ∨ rxCap ≤ 128) → exec (.init port baud rxCap de re tx rx) s = .refused .illegalConfiguration

/-- 45_host_operations.md rule R261: a command other than INIT before the first INIT is refused. -/
def Obligations.CommandsBeforeInitAreRefused : Prop :=
  ∀ (id f : Byte) (addr value : Half) (baud : Word) (s : State), s.busy = false → s.initialised = false →
    exec (.setBaudrate baud) s = .refused .notInitialised ∧ exec .flush s = .refused .notInitialised ∧
    exec (.request id f addr) s = .refused .notInitialised ∧ exec (.set id addr value) s = .refused .notInitialised

/-- 30_encoding.md rule R103, 45_host_operations.md rule R262: a command word presented while BUSY = 1, whatever it is, is
not accepted, has no effect and is not remembered. -/
def Obligations.CommandsWhileBusyHaveNoEffect : Prop :=
  ∀ (cmd : BitVec 67) (ext : BitVec 40) (s : State) (rest : List Input), s.busy = true →
    s.inputs = .present (.command cmd ext) :: rest → cmdReady s = false ∧ step s = .next { s with inputs := rest }

/-- 45_host_operations.md rule R256: SET_BAUDRATE changes the baud rate, sets the channel again with every other argument
unchanged, and leaves the line and every other register alone; on the channel only the environment acts before and after
(20_memory.md rule R72). -/
def Obligations.SetBaudrateChangesTheRateAlone : Prop :=
  ∀ (baud : Word) (s : State), s.busy = false → s.initialised = true → 4800 ≤ baud →
    ∃ (t : State) (c : Channel) (q p : List Byte), exec (.setBaudrate baud) s = .next t ∧
      t.cfg = { s.cfg with baud := baud } ∧ t.rspValid = true ∧ EnvironmentActed s.txMode s.chan c ∧
      EnvironmentActed s.txMode
        ⟨some ⟨s.cfg.port, baud, 8, false, 1, s.cfg.pinTx, s.cfg.pinRx, s.cfg.rxCap⟩, q, p, c.txLine⟩ t.chan ∧
      t.trace = s.trace ++ [⟨.configure ⟨s.cfg.port, baud, 8, false, 1, s.cfg.pinTx, s.cfg.pinRx, s.cfg.rxCap⟩, s.seq,
        s.txMode, s.attempt⟩] ∧
      t = { s with
        cfg := t.cfg, outTag := t.outTag, outValue := t.outValue, rspValid := true, chan := t.chan, script := t.script,
        fresh := t.fresh, trace := t.trace }

/-- 45_host_operations.md rule R257: a SET_BAUDRATE below 4800 is refused. -/
def Obligations.LowBaudrateIsRefused : Prop :=
  ∀ (baud : Word) (s : State), s.busy = false → s.initialised = true → baud < 4800 →
    exec (.setBaudrate baud) s = .refused .illegalBaudRate

/-- 45_host_operations.md rule R259: FLUSH empties RXQ and completes, only the environment acting on the channel before and
after (20_memory.md rule R72); line mode, SEQ, OUTCOME.TAG and every buffer of the block stay. That the tag survives, where 10_state.md rule R34 leaves it unspecified, is log entry 7's choice, as is the free
OUTCOME.VALUE. -/
def Obligations.FlushEmptiesTheReceiveQueueAndCompletes : Prop :=
  ∀ s : State, s.busy = false → s.initialised = true →
    ∃ (t : State) (c : Channel), exec .flush s = .next t ∧ EnvironmentActed s.txMode s.chan c ∧
      EnvironmentActed s.txMode { c with rxq := [] } t.chan ∧
      (∀ rest : List Slot, s.script = Slot.quiet :: Slot.quiet :: rest → t.chan = { s.chan with rxq := [] }) ∧
      t = { s with
        chan := t.chan, script := t.script, outValue := t.outValue, rspValid := true, fresh := t.fresh,
        trace := s.trace ++ [⟨.flush, s.seq, s.txMode, s.attempt⟩] }

/-! ## GUARD_TIME and the exchanges -/

/-- 44_transaction_manager.md rule R212: GUARD_TIME writes floor(40000000 / CFG.BAUD) to GUARD_US and no other register. -/
def Obligations.GuardTimeIsFortyBitTimes : Prop :=
  ∀ s : State, ∃ t : State, exec .guardTime s = .next t ∧
    (s.cfg.baud ≠ 0 → t.guardUs.toNat = 40 * 1000000 / s.cfg.baud.toNat) ∧
    t = { s with guardUs := t.guardUs, fresh := t.fresh }

/-- 44_transaction_manager.md rule R213: the guard time of a legal baud rate is at most 8333 microseconds, and 0 exactly
above 40000000 baud. -/
def Obligations.GuardTimeOfALegalRateIsBounded : Prop :=
  ∀ s : State, 4800 ≤ s.cfg.baud → ∃ t : State, exec .guardTime s = .next t ∧ t.guardUs.toNat ≤ 8333 ∧
    (t.guardUs = 0 ↔ 40000000 < s.cfg.baud.toNat)

/-- 44_transaction_manager.md rule R218, 30_encoding.md rule R105: REQUEST with a function other than 3 and 4 ends with
UnsupportedFunction before any action on the environment, which alone acts on the channel (20_memory.md rule R72); that REQ.UNIT_ID and REQ.ADDR are written on acceptance, where the
pseudocode of rule R222 writes nothing, is log entry 8. -/
def Obligations.UnsupportedFunctionFailsAtOnce : Prop :=
  ∀ (id f : Byte) (addr : Half) (s : State), s.busy = false → s.initialised = true → f ≠ 3 → f ≠ 4 →
    ∃ t : State, exec (.request id f addr) s = .next t ∧ t.outTag = .unsupportedFunction ∧
      EnvironmentActed s.txMode s.chan t.chan ∧
      (∀ rest : List Slot, s.script = Slot.quiet :: rest → t.chan = s.chan) ∧
      t = { s with
        req := { s.req with unitId := id, addr := addr }, outTag := t.outTag, outValue := t.outValue, rspValid := true,
        chan := t.chan, script := t.script, fresh := t.fresh,
        trace := s.trace ++ [⟨.finished .unsupportedFunction, s.seq, s.txMode, s.attempt⟩] }

/-- 44_transaction_manager.md rules R222, R221, R229, R281: a REQUEST for function 3 or 4 always ends, with one of four
outcomes, with the request, the frame and the guard time of the command, the line in transmit mode exactly after a value,
and every register it does not write unchanged. That TXF[8..10] keep what they held is log entry 4's choice. -/
def Obligations.RequestAlwaysEndsWithAnOutcome : Prop :=
  ∀ (id f : Byte) (addr : Half) (s : State), s.busy = false → s.initialised = true → (f = 3 ∨ f = 4) →
    ∃ (t : State) (o : ResponseOutcome), exec (.request id f addr) s = .next t ∧ holdsOutcome t o ∧
      o ≠ .unsupportedFunction ∧ t.rspValid = true ∧ t.seq = .idle ∧ t.txMode = isValue o ∧
      t.req = { s.req with
        unitId := id, kind := if f = 3 then .readHolding else .readInput, addr := addr } ∧
      t.txLen = 8 ∧ txFrame t = withChecksum (readRequestBody id f addr) ∧
      (∀ k : Fin 11, 8 ≤ k.val → t.txf[k] = s.txf[k]) ∧
      (s.cfg.baud ≠ 0 → t.guardUs.toNat = 40000000 / s.cfg.baud.toNat) ∧
      1 ≤ t.attempt.toNat ∧ t.attempt.toNat ≤ 3 ∧ (o = .checksumError → t.attempt = 3) ∧ t.poll.toNat ≤ 10 ∧
      t.rxLen ≤ 16 ∧ t.chan.settings = s.chan.settings ∧
      t = { s with
        txMode := t.txMode, seq := t.seq, attempt := t.attempt, poll := t.poll, req := t.req, outTag := t.outTag,
        outValue := t.outValue, rspValid := t.rspValid, txf := t.txf, txLen := t.txLen, rxb := t.rxb, rxLen := t.rxLen,
        crcAcc := t.crcAcc, guardUs := t.guardUs, chan := t.chan, gpio := t.gpio, script := t.script, fresh := t.fresh,
        trace := t.trace, seqLog := t.seqLog }

/-- 44_transaction_manager.md rules R225, R221, R229, R281: the same for SET. -/
def Obligations.SetAlwaysEndsWithAnOutcome : Prop :=
  ∀ (id : Byte) (addr value : Half) (s : State), s.busy = false → s.initialised = true →
    ∃ (t : State) (o : ResponseOutcome), exec (.set id addr value) s = .next t ∧ holdsOutcome t o ∧
      o ≠ .unsupportedFunction ∧ t.rspValid = true ∧ t.seq = .idle ∧ t.txMode = isValue o ∧
      t.req = ⟨id, .writeSingle, addr, value⟩ ∧
      t.txLen = 11 ∧ txFrame t = withChecksum (writeRequestBody id addr value) ∧
      (s.cfg.baud ≠ 0 → t.guardUs.toNat = 40000000 / s.cfg.baud.toNat) ∧
      1 ≤ t.attempt.toNat ∧ t.attempt.toNat ≤ 3 ∧ (o = .checksumError → t.attempt = 3) ∧ t.poll.toNat ≤ 10 ∧
      t.rxLen ≤ 16 ∧ t.chan.settings = s.chan.settings ∧
      t = { s with
        txMode := t.txMode, seq := t.seq, attempt := t.attempt, poll := t.poll, req := t.req, outTag := t.outTag,
        outValue := t.outValue, rspValid := t.rspValid, txf := t.txf, txLen := t.txLen, rxb := t.rxb, rxLen := t.rxLen,
        crcAcc := t.crcAcc, guardUs := t.guardUs, chan := t.chan, gpio := t.gpio, script := t.script, fresh := t.fresh,
        trace := t.trace, seqLog := t.seqLog }

/-- 44_transaction_manager.md rules R215, R217: TRANSACT on its own always ends with one of the four outcomes, hands it
back, and writes neither OUTCOME, nor the frame, nor the guard time. -/
def Obligations.TransactAlwaysEndsWithAnOutcome : Prop :=
  ∀ s : State, ∃ (t : State) (o : ResponseOutcome), exec .transact s = .next t ∧ t.result = .outcome o ∧
      o ≠ .unsupportedFunction ∧ t.txMode = isValue o ∧ 1 ≤ t.attempt.toNat ∧ t.attempt.toNat ≤ 3 ∧
      (o = .checksumError → t.attempt = 3) ∧ t.poll.toNat ≤ 10 ∧ t.rxLen ≤ 16 ∧ t.chan.settings = s.chan.settings ∧
      t = { s with
        txMode := t.txMode, seq := t.seq, attempt := t.attempt, poll := t.poll, rxb := t.rxb, rxLen := t.rxLen,
        crcAcc := t.crcAcc, chan := t.chan, gpio := t.gpio, script := t.script, fresh := t.fresh, result := t.result,
        trace := t.trace, seqLog := t.seqLog }

/-- 44_transaction_manager.md rules R216, R217, R219, R220, R223, R232: what an exchange does to the environment, action by
action, that its outcome is the one its last response explains, and that RXB and CRC_ACC hold what that read returned and its
checksum (60_exceptions.md rule R281, 43_frame_codec.md rule R188). -/
def Obligations.ExchangeActsAsTheRulesOrder : Prop :=
  ∀ (i : Instr) (s : State) (frame : List Byte), Exchanging i s frame →
    ∃ (t : State) (o : ResponseOutcome) (new : List TraceEntry) (toks : List Token),
      exec i s = .next t ∧ Reports i t o ∧ t.trace = s.trace ++ new ∧ tokens new = toks ++ endTokens i o ∧
      ExchangeTrace t frame o toks

/-- 20_memory.md rule R80: in an exchange every write stands in transmit mode, every count and read in receive mode, every
action in its state of the sequencer. -/
def Obligations.ExchangeActionsStandInTheirLineMode : Prop :=
  ∀ (i : Instr) (s : State) (frame : List Byte), Exchanging i s frame →
    ∃ (t : State) (new : List TraceEntry), exec i s = .next t ∧ t.trace = s.trace ++ new ∧
      ∀ e ∈ new, disciplined e = true

/-- 20_memory.md rules R65, R70, R72, 44_transaction_manager.md rules R214, R217: what is handed to the channel is, after what was
handed to it before, the same frame once per attempt, whole and in order. That no handed byte is lost again is log entry 14's
(an unsent tail stays pending, where 93_implementation_defined.md U4 lets it be cut). -/
def Obligations.ExchangeSendsTheSameFrameOncePerAttempt : Prop :=
  ∀ (i : Instr) (s : State) (frame : List Byte), Exchanging i s frame →
    ∃ (t : State) (new : List TraceEntry), exec i s = .next t ∧ t.trace = s.trace ++ new ∧
      framesSent new = t.attempt.toNat ∧
      written t.chan = written s.chan ++ (List.replicate t.attempt.toNat frame).flatten

/-- 44_transaction_manager.md rule R223, 10_state.md rule R28: after an exchange both direction pins stand at the line mode,
which is transmit exactly after a value; no other pin has moved. -/
def Obligations.ExchangeLeavesThePinsAtTheLineMode : Prop :=
  ∀ (i : Instr) (s : State) (frame : List Byte), Exchanging i s frame →
    ∃ (t : State) (o : ResponseOutcome), exec i s = .next t ∧ Reports i t o ∧ t.txMode = isValue o ∧ pinsFollowLine t ∧
      otherPinsKept s t

/-- 44_transaction_manager.md rule R226: SEQ moves only along the table's transitions, from Idle; REQUEST and SET bring it
back to Idle, TRANSACT to a state the table leaves for Idle. -/
def Obligations.SequencerFollowsItsTable : Prop :=
  ∀ (i : Instr) (s : State) (frame : List Byte), Exchanging i s frame → s.seq = .idle →
    ∃ (t : State) (path : List SeqState), exec i s = .next t ∧ t.seqLog = s.seqLog ++ path ∧ SeqPath (.idle :: path) ∧
      path.getLast? = some t.seq ∧ (i ≠ .transact → t.seq = .idle) ∧ (i = .transact → seqEdge t.seq .idle = true)

/-- 44_transaction_manager.md rule R228: the time an exchange can wait is bounded. -/
def Obligations.ExchangeWaitIsBounded : Prop :=
  ∀ (i : Instr) (s : State) (frame : List Byte), Exchanging i s frame →
    ∃ (t : State) (new : List TraceEntry), exec i s = .next t ∧ t.trace = s.trace ++ new ∧
      totalWait new ≤ worstCaseWait t.guardUs

/-- 20_memory.md rule R80 (2), 70_reset_and_hazards.md rule R319: bytes buffered before an exchange are never decoded: they
have no influence on anything it does. That a free value (a byte of RXB beyond RX_LEN, an OUTCOME.VALUE with no meaning, the
value of an over-declared payload) is the same in both runs is log entry 4's numbering by a counter, not the spec's, and that
the environment does the same in both is the premise of the comparison (log entry 2). -/
def Obligations.StaleInputIsNeverDecoded : Prop :=
  ∀ (i : Instr) (s : State) (frame q : List Byte), Exchanging i s frame →
    ∃ t : State, exec i s = .next t ∧ exec i (setRxq q s) = .next t

/-- 70_reset_and_hazards.md rule R304: what REQ, TXF, RXB, CRC_ACC, GUARD_US, ATTEMPT and POLL held before has no influence
on what a REQUEST, a SET or a request frame does: the two runs end alike but for REQ, the bytes of TXF and those of RXB, of which
the bytes received are the same. That a free value is the same in both runs (an over-declared payload's outcome among them) is
log entry 4's numbering by a counter, not the spec's. -/
def Obligations.EarlierRegisterContentsDoNotMatter : Prop :=
  ∀ (i : Instr) (s : State) (frame : List Byte) (attempt : BitVec 2) (poll : BitVec 4) (req : Request)
    (txf : Vector Byte Config.writeReqLen) (txLen : Nat) (rxb : Vector Byte Config.readMax) (rxLen : Nat) (crcAcc : Half)
    (guardUs : Word),
    Exchanging i s frame → i ≠ .transact →
    ∃ t u : State, exec i s = .next t ∧
      exec i { s with
        attempt := attempt, poll := poll, req := req, txf := txf, txLen := txLen, rxb := rxb, rxLen := rxLen,
        crcAcc := crcAcc, guardUs := guardUs } = .next u ∧
      u = { t with req := u.req, txf := u.txf, rxb := u.rxb } ∧ txFrame u = txFrame t ∧ rxFrame u = rxFrame t

/-- 44_transaction_manager.md rule R219, 95_test_vectors.md S7, log entry 2: where nothing happens in the environment, an
exchange ends with NoResponse after one attempt and exactly one polling budget. -/
def Obligations.SilentSlaveGivesNoResponse : Prop :=
  ∀ (i : Instr) (s : State) (frame : List Byte) (rest : List Slot), Exchanging i s frame →
    s.script = silentSlots ++ endSlots i ++ rest →
    ∃ (t : State) (new : List TraceEntry), exec i s = .next t ∧ Reports i t .noResponse ∧ t.attempt = 1 ∧ t.poll = 10 ∧
      t.rxLen = 0 ∧ t.txMode = false ∧ t.script = rest ∧ t.chan.rxq = [] ∧ t.trace = s.trace ++ new ∧
      tokens new = transmitTokens t.guardUs frame ++ failedPolls (List.replicate 10 0) ++ endTokens i .noResponse

/-- 44_transaction_manager.md rule R220, 95_test_vectors.md S8: with two corrupt responses and then one that decodes to a
value, an exchange succeeds at the third attempt and not earlier. -/
def Obligations.ThirdAttemptSucceedsAfterTwoCorruptResponses : Prop :=
  ∀ (i : Instr) (s : State) (frame r1 r2 r3 : List Byte) (v : Word) (rest : List Slot), Exchanging i s frame →
    (∀ r ∈ [r1, r2, r3], 6 ≤ r.length ∧ r.length ≤ 16) → crcValid r1 = false → crcValid r2 = false →
    (∀ base, decodeBytes base r3 = .value v) →
    s.script = answerSlots r1 ++ answerSlots r2 ++ answerSlots r3 ++ Slot.quiet :: (endSlots i ++ rest) →
    ∃ (t : State) (new : List TraceEntry), exec i s = .next t ∧ Reports i t (.value v) ∧ t.attempt = 3 ∧ t.txMode = true ∧
      rxFrame t = r3 ∧ t.script = rest ∧ t.trace = s.trace ++ new ∧
      tokens new = transmitTokens t.guardUs frame ++ [.count r1.length, .rx r1] ++
        transmitTokens t.guardUs frame ++ [.count r2.length, .rx r2] ++
        transmitTokens t.guardUs frame ++ [.count r3.length, .rx r3] ++ [.line true] ++ endTokens i (.value v)

/-! ## The views of a result -/

/-- 30_encoding.md rules R113, R114, 70_reset_and_hazards.md rule R321: the legacy views, the three collisions of the
integer view, and that the tag codes do not collide. -/
def Obligations.LegacyViewsAndTheirCollisions : Prop :=
  (∀ v : Word, legacyI32 (.value v) = v ∧ setOk (.value v) = true ∧ setI8 (.value v) = 1) ∧
  legacyI32 .noResponse = 0x80000000 ∧ legacyI32 .checksumError = 0x80000001 ∧
  legacyI32 .unsupportedFunction = 0xFFFFFFFF ∧
  legacyI32 .noResponse = legacyI32 (.value 0x80000000) ∧ legacyI32 .checksumError = legacyI32 (.value 0x80000001) ∧
  legacyI32 .unsupportedFunction = legacyI32 (.value 0xFFFFFFFF) ∧
  (∀ o : ResponseOutcome, isValue o = false → setOk o = false ∧ setI8 o = 0) ∧
  (∀ o o' : ResponseOutcome, tagCode (tagOf o) = tagCode (tagOf o') → tagOf o = tagOf o')

end Slice0Obligations
end

