-- ==== Sys2Proof/Laws/State.lean ====
section
/-! SUPPORT. One lemma per field per record update of Machine/Ops.lean, each true by rfl, so that no proof unfolds an
update. What loadTxf and loadRxb leave in their buffers stands in Laws/Buffers.lean. -/

namespace Sys2Proof.Machine

open Sys2Proof

/-- Two states with the same fields are the same state. -/
theorem State.eq_of_fields {s t : State}
    (h1 : s.cfg = t.cfg) (h2 : s.initialised = t.initialised) (h3 : s.txMode = t.txMode) (h4 : s.busy = t.busy)
    (h5 : s.seq = t.seq) (h6 : s.attempt = t.attempt) (h7 : s.poll = t.poll) (h8 : s.req = t.req) (h9 : s.outTag
    = t.outTag) (h10 : s.outValue = t.outValue) (h11 : s.rspValid = t.rspValid) (h12 : s.txf = t.txf) (h13 :
    s.txLen = t.txLen) (h14 : s.rxb = t.rxb) (h15 : s.rxLen = t.rxLen) (h16 : s.crcAcc = t.crcAcc) (h17 :
    s.guardUs = t.guardUs) (h18 : s.chan = t.chan) (h19 : s.gpio = t.gpio) (h20 : s.inputs = t.inputs) (h21 :
    s.script = t.script) (h22 : s.fresh = t.fresh) (h23 : s.result = t.result) (h24 : s.trace = t.trace) (h25 :
    s.seqLog = t.seqLog) :
    s = t := by
  cases s; cases t
  simp only at h1 h2 h3 h4 h5 h6 h7 h8 h9 h10 h11 h12 h13 h14 h15 h16 h17 h18 h19 h20 h21 h22 h23 h24 h25
  subst h1 h2 h3 h4 h5 h6 h7 h8 h9 h10 h11 h12 h13 h14 h15 h16 h17 h18 h19 h20 h21 h22 h23 h24 h25
  rfl

variable (s : State)

/-- CHECKSUM as an operation is the write of its result (40_checksum.md rule R131). -/
@[simp] theorem computeChecksum_eq (bytes : List Byte) : computeChecksum bytes s = setCrcAcc (checksum bytes) s := rfl

/-! ### setSeq -/
@[simp] theorem setSeq_cfg (q : SeqState) : (setSeq q s).cfg = s.cfg := rfl
@[simp] theorem setSeq_initialised (q : SeqState) : (setSeq q s).initialised = s.initialised := rfl
@[simp] theorem setSeq_txMode (q : SeqState) : (setSeq q s).txMode = s.txMode := rfl
@[simp] theorem setSeq_busy (q : SeqState) : (setSeq q s).busy = s.busy := rfl
@[simp] theorem setSeq_seq (q : SeqState) : (setSeq q s).seq = q := rfl
@[simp] theorem setSeq_attempt (q : SeqState) : (setSeq q s).attempt = s.attempt := rfl
@[simp] theorem setSeq_poll (q : SeqState) : (setSeq q s).poll = s.poll := rfl
@[simp] theorem setSeq_req (q : SeqState) : (setSeq q s).req = s.req := rfl
@[simp] theorem setSeq_outTag (q : SeqState) : (setSeq q s).outTag = s.outTag := rfl
@[simp] theorem setSeq_outValue (q : SeqState) : (setSeq q s).outValue = s.outValue := rfl
@[simp] theorem setSeq_rspValid (q : SeqState) : (setSeq q s).rspValid = s.rspValid := rfl
@[simp] theorem setSeq_txf (q : SeqState) : (setSeq q s).txf = s.txf := rfl
@[simp] theorem setSeq_txLen (q : SeqState) : (setSeq q s).txLen = s.txLen := rfl
@[simp] theorem setSeq_rxb (q : SeqState) : (setSeq q s).rxb = s.rxb := rfl
@[simp] theorem setSeq_rxLen (q : SeqState) : (setSeq q s).rxLen = s.rxLen := rfl
@[simp] theorem setSeq_crcAcc (q : SeqState) : (setSeq q s).crcAcc = s.crcAcc := rfl
@[simp] theorem setSeq_guardUs (q : SeqState) : (setSeq q s).guardUs = s.guardUs := rfl
@[simp] theorem setSeq_chan (q : SeqState) : (setSeq q s).chan = s.chan := rfl
@[simp] theorem setSeq_gpio (q : SeqState) : (setSeq q s).gpio = s.gpio := rfl
@[simp] theorem setSeq_inputs (q : SeqState) : (setSeq q s).inputs = s.inputs := rfl
@[simp] theorem setSeq_script (q : SeqState) : (setSeq q s).script = s.script := rfl
@[simp] theorem setSeq_fresh (q : SeqState) : (setSeq q s).fresh = s.fresh := rfl
@[simp] theorem setSeq_result (q : SeqState) : (setSeq q s).result = s.result := rfl
@[simp] theorem setSeq_trace (q : SeqState) : (setSeq q s).trace = s.trace := rfl
@[simp] theorem setSeq_seqLog (q : SeqState) : (setSeq q s).seqLog = s.seqLog ++ [q] := rfl

/-! ### setAttempt -/
@[simp] theorem setAttempt_cfg (n : BitVec 2) : (setAttempt n s).cfg = s.cfg := rfl
@[simp] theorem setAttempt_initialised (n : BitVec 2) : (setAttempt n s).initialised = s.initialised := rfl
@[simp] theorem setAttempt_txMode (n : BitVec 2) : (setAttempt n s).txMode = s.txMode := rfl
@[simp] theorem setAttempt_busy (n : BitVec 2) : (setAttempt n s).busy = s.busy := rfl
@[simp] theorem setAttempt_seq (n : BitVec 2) : (setAttempt n s).seq = s.seq := rfl
@[simp] theorem setAttempt_attempt (n : BitVec 2) : (setAttempt n s).attempt = n := rfl
@[simp] theorem setAttempt_poll (n : BitVec 2) : (setAttempt n s).poll = s.poll := rfl
@[simp] theorem setAttempt_req (n : BitVec 2) : (setAttempt n s).req = s.req := rfl
@[simp] theorem setAttempt_outTag (n : BitVec 2) : (setAttempt n s).outTag = s.outTag := rfl
@[simp] theorem setAttempt_outValue (n : BitVec 2) : (setAttempt n s).outValue = s.outValue := rfl
@[simp] theorem setAttempt_rspValid (n : BitVec 2) : (setAttempt n s).rspValid = s.rspValid := rfl
@[simp] theorem setAttempt_txf (n : BitVec 2) : (setAttempt n s).txf = s.txf := rfl
@[simp] theorem setAttempt_txLen (n : BitVec 2) : (setAttempt n s).txLen = s.txLen := rfl
@[simp] theorem setAttempt_rxb (n : BitVec 2) : (setAttempt n s).rxb = s.rxb := rfl
@[simp] theorem setAttempt_rxLen (n : BitVec 2) : (setAttempt n s).rxLen = s.rxLen := rfl
@[simp] theorem setAttempt_crcAcc (n : BitVec 2) : (setAttempt n s).crcAcc = s.crcAcc := rfl
@[simp] theorem setAttempt_guardUs (n : BitVec 2) : (setAttempt n s).guardUs = s.guardUs := rfl
@[simp] theorem setAttempt_chan (n : BitVec 2) : (setAttempt n s).chan = s.chan := rfl
@[simp] theorem setAttempt_gpio (n : BitVec 2) : (setAttempt n s).gpio = s.gpio := rfl
@[simp] theorem setAttempt_inputs (n : BitVec 2) : (setAttempt n s).inputs = s.inputs := rfl
@[simp] theorem setAttempt_script (n : BitVec 2) : (setAttempt n s).script = s.script := rfl
@[simp] theorem setAttempt_fresh (n : BitVec 2) : (setAttempt n s).fresh = s.fresh := rfl
@[simp] theorem setAttempt_result (n : BitVec 2) : (setAttempt n s).result = s.result := rfl
@[simp] theorem setAttempt_trace (n : BitVec 2) : (setAttempt n s).trace = s.trace := rfl
@[simp] theorem setAttempt_seqLog (n : BitVec 2) : (setAttempt n s).seqLog = s.seqLog := rfl

/-! ### setPoll -/
@[simp] theorem setPoll_cfg (n : BitVec 4) : (setPoll n s).cfg = s.cfg := rfl
@[simp] theorem setPoll_initialised (n : BitVec 4) : (setPoll n s).initialised = s.initialised := rfl
@[simp] theorem setPoll_txMode (n : BitVec 4) : (setPoll n s).txMode = s.txMode := rfl
@[simp] theorem setPoll_busy (n : BitVec 4) : (setPoll n s).busy = s.busy := rfl
@[simp] theorem setPoll_seq (n : BitVec 4) : (setPoll n s).seq = s.seq := rfl
@[simp] theorem setPoll_attempt (n : BitVec 4) : (setPoll n s).attempt = s.attempt := rfl
@[simp] theorem setPoll_poll (n : BitVec 4) : (setPoll n s).poll = n := rfl
@[simp] theorem setPoll_req (n : BitVec 4) : (setPoll n s).req = s.req := rfl
@[simp] theorem setPoll_outTag (n : BitVec 4) : (setPoll n s).outTag = s.outTag := rfl
@[simp] theorem setPoll_outValue (n : BitVec 4) : (setPoll n s).outValue = s.outValue := rfl
@[simp] theorem setPoll_rspValid (n : BitVec 4) : (setPoll n s).rspValid = s.rspValid := rfl
@[simp] theorem setPoll_txf (n : BitVec 4) : (setPoll n s).txf = s.txf := rfl
@[simp] theorem setPoll_txLen (n : BitVec 4) : (setPoll n s).txLen = s.txLen := rfl
@[simp] theorem setPoll_rxb (n : BitVec 4) : (setPoll n s).rxb = s.rxb := rfl
@[simp] theorem setPoll_rxLen (n : BitVec 4) : (setPoll n s).rxLen = s.rxLen := rfl
@[simp] theorem setPoll_crcAcc (n : BitVec 4) : (setPoll n s).crcAcc = s.crcAcc := rfl
@[simp] theorem setPoll_guardUs (n : BitVec 4) : (setPoll n s).guardUs = s.guardUs := rfl
@[simp] theorem setPoll_chan (n : BitVec 4) : (setPoll n s).chan = s.chan := rfl
@[simp] theorem setPoll_gpio (n : BitVec 4) : (setPoll n s).gpio = s.gpio := rfl
@[simp] theorem setPoll_inputs (n : BitVec 4) : (setPoll n s).inputs = s.inputs := rfl
@[simp] theorem setPoll_script (n : BitVec 4) : (setPoll n s).script = s.script := rfl
@[simp] theorem setPoll_fresh (n : BitVec 4) : (setPoll n s).fresh = s.fresh := rfl
@[simp] theorem setPoll_result (n : BitVec 4) : (setPoll n s).result = s.result := rfl
@[simp] theorem setPoll_trace (n : BitVec 4) : (setPoll n s).trace = s.trace := rfl
@[simp] theorem setPoll_seqLog (n : BitVec 4) : (setPoll n s).seqLog = s.seqLog := rfl

/-! ### setReq -/
@[simp] theorem setReq_cfg (r : Request) : (setReq r s).cfg = s.cfg := rfl
@[simp] theorem setReq_initialised (r : Request) : (setReq r s).initialised = s.initialised := rfl
@[simp] theorem setReq_txMode (r : Request) : (setReq r s).txMode = s.txMode := rfl
@[simp] theorem setReq_busy (r : Request) : (setReq r s).busy = s.busy := rfl
@[simp] theorem setReq_seq (r : Request) : (setReq r s).seq = s.seq := rfl
@[simp] theorem setReq_attempt (r : Request) : (setReq r s).attempt = s.attempt := rfl
@[simp] theorem setReq_poll (r : Request) : (setReq r s).poll = s.poll := rfl
@[simp] theorem setReq_req (r : Request) : (setReq r s).req = r := rfl
@[simp] theorem setReq_outTag (r : Request) : (setReq r s).outTag = s.outTag := rfl
@[simp] theorem setReq_outValue (r : Request) : (setReq r s).outValue = s.outValue := rfl
@[simp] theorem setReq_rspValid (r : Request) : (setReq r s).rspValid = s.rspValid := rfl
@[simp] theorem setReq_txf (r : Request) : (setReq r s).txf = s.txf := rfl
@[simp] theorem setReq_txLen (r : Request) : (setReq r s).txLen = s.txLen := rfl
@[simp] theorem setReq_rxb (r : Request) : (setReq r s).rxb = s.rxb := rfl
@[simp] theorem setReq_rxLen (r : Request) : (setReq r s).rxLen = s.rxLen := rfl
@[simp] theorem setReq_crcAcc (r : Request) : (setReq r s).crcAcc = s.crcAcc := rfl
@[simp] theorem setReq_guardUs (r : Request) : (setReq r s).guardUs = s.guardUs := rfl
@[simp] theorem setReq_chan (r : Request) : (setReq r s).chan = s.chan := rfl
@[simp] theorem setReq_gpio (r : Request) : (setReq r s).gpio = s.gpio := rfl
@[simp] theorem setReq_inputs (r : Request) : (setReq r s).inputs = s.inputs := rfl
@[simp] theorem setReq_script (r : Request) : (setReq r s).script = s.script := rfl
@[simp] theorem setReq_fresh (r : Request) : (setReq r s).fresh = s.fresh := rfl
@[simp] theorem setReq_result (r : Request) : (setReq r s).result = s.result := rfl
@[simp] theorem setReq_trace (r : Request) : (setReq r s).trace = s.trace := rfl
@[simp] theorem setReq_seqLog (r : Request) : (setReq r s).seqLog = s.seqLog := rfl

/-! ### setCfg -/
@[simp] theorem setCfg_cfg (c : Configuration) : (setCfg c s).cfg = c := rfl
@[simp] theorem setCfg_initialised (c : Configuration) : (setCfg c s).initialised = s.initialised := rfl
@[simp] theorem setCfg_txMode (c : Configuration) : (setCfg c s).txMode = s.txMode := rfl
@[simp] theorem setCfg_busy (c : Configuration) : (setCfg c s).busy = s.busy := rfl
@[simp] theorem setCfg_seq (c : Configuration) : (setCfg c s).seq = s.seq := rfl
@[simp] theorem setCfg_attempt (c : Configuration) : (setCfg c s).attempt = s.attempt := rfl
@[simp] theorem setCfg_poll (c : Configuration) : (setCfg c s).poll = s.poll := rfl
@[simp] theorem setCfg_req (c : Configuration) : (setCfg c s).req = s.req := rfl
@[simp] theorem setCfg_outTag (c : Configuration) : (setCfg c s).outTag = s.outTag := rfl
@[simp] theorem setCfg_outValue (c : Configuration) : (setCfg c s).outValue = s.outValue := rfl
@[simp] theorem setCfg_rspValid (c : Configuration) : (setCfg c s).rspValid = s.rspValid := rfl
@[simp] theorem setCfg_txf (c : Configuration) : (setCfg c s).txf = s.txf := rfl
@[simp] theorem setCfg_txLen (c : Configuration) : (setCfg c s).txLen = s.txLen := rfl
@[simp] theorem setCfg_rxb (c : Configuration) : (setCfg c s).rxb = s.rxb := rfl
@[simp] theorem setCfg_rxLen (c : Configuration) : (setCfg c s).rxLen = s.rxLen := rfl
@[simp] theorem setCfg_crcAcc (c : Configuration) : (setCfg c s).crcAcc = s.crcAcc := rfl
@[simp] theorem setCfg_guardUs (c : Configuration) : (setCfg c s).guardUs = s.guardUs := rfl
@[simp] theorem setCfg_chan (c : Configuration) : (setCfg c s).chan = s.chan := rfl
@[simp] theorem setCfg_gpio (c : Configuration) : (setCfg c s).gpio = s.gpio := rfl
@[simp] theorem setCfg_inputs (c : Configuration) : (setCfg c s).inputs = s.inputs := rfl
@[simp] theorem setCfg_script (c : Configuration) : (setCfg c s).script = s.script := rfl
@[simp] theorem setCfg_fresh (c : Configuration) : (setCfg c s).fresh = s.fresh := rfl
@[simp] theorem setCfg_result (c : Configuration) : (setCfg c s).result = s.result := rfl
@[simp] theorem setCfg_trace (c : Configuration) : (setCfg c s).trace = s.trace := rfl
@[simp] theorem setCfg_seqLog (c : Configuration) : (setCfg c s).seqLog = s.seqLog := rfl

/-! ### setInitialised -/
@[simp] theorem setInitialised_cfg : (setInitialised s).cfg = s.cfg := rfl
@[simp] theorem setInitialised_initialised : (setInitialised s).initialised = true := rfl
@[simp] theorem setInitialised_txMode : (setInitialised s).txMode = s.txMode := rfl
@[simp] theorem setInitialised_busy : (setInitialised s).busy = s.busy := rfl
@[simp] theorem setInitialised_seq : (setInitialised s).seq = s.seq := rfl
@[simp] theorem setInitialised_attempt : (setInitialised s).attempt = s.attempt := rfl
@[simp] theorem setInitialised_poll : (setInitialised s).poll = s.poll := rfl
@[simp] theorem setInitialised_req : (setInitialised s).req = s.req := rfl
@[simp] theorem setInitialised_outTag : (setInitialised s).outTag = s.outTag := rfl
@[simp] theorem setInitialised_outValue : (setInitialised s).outValue = s.outValue := rfl
@[simp] theorem setInitialised_rspValid : (setInitialised s).rspValid = s.rspValid := rfl
@[simp] theorem setInitialised_txf : (setInitialised s).txf = s.txf := rfl
@[simp] theorem setInitialised_txLen : (setInitialised s).txLen = s.txLen := rfl
@[simp] theorem setInitialised_rxb : (setInitialised s).rxb = s.rxb := rfl
@[simp] theorem setInitialised_rxLen : (setInitialised s).rxLen = s.rxLen := rfl
@[simp] theorem setInitialised_crcAcc : (setInitialised s).crcAcc = s.crcAcc := rfl
@[simp] theorem setInitialised_guardUs : (setInitialised s).guardUs = s.guardUs := rfl
@[simp] theorem setInitialised_chan : (setInitialised s).chan = s.chan := rfl
@[simp] theorem setInitialised_gpio : (setInitialised s).gpio = s.gpio := rfl
@[simp] theorem setInitialised_inputs : (setInitialised s).inputs = s.inputs := rfl
@[simp] theorem setInitialised_script : (setInitialised s).script = s.script := rfl
@[simp] theorem setInitialised_fresh : (setInitialised s).fresh = s.fresh := rfl
@[simp] theorem setInitialised_result : (setInitialised s).result = s.result := rfl
@[simp] theorem setInitialised_trace : (setInitialised s).trace = s.trace := rfl
@[simp] theorem setInitialised_seqLog : (setInitialised s).seqLog = s.seqLog := rfl

/-! ### setCrcAcc -/
@[simp] theorem setCrcAcc_cfg (c : Half) : (setCrcAcc c s).cfg = s.cfg := rfl
@[simp] theorem setCrcAcc_initialised (c : Half) : (setCrcAcc c s).initialised = s.initialised := rfl
@[simp] theorem setCrcAcc_txMode (c : Half) : (setCrcAcc c s).txMode = s.txMode := rfl
@[simp] theorem setCrcAcc_busy (c : Half) : (setCrcAcc c s).busy = s.busy := rfl
@[simp] theorem setCrcAcc_seq (c : Half) : (setCrcAcc c s).seq = s.seq := rfl
@[simp] theorem setCrcAcc_attempt (c : Half) : (setCrcAcc c s).attempt = s.attempt := rfl
@[simp] theorem setCrcAcc_poll (c : Half) : (setCrcAcc c s).poll = s.poll := rfl
@[simp] theorem setCrcAcc_req (c : Half) : (setCrcAcc c s).req = s.req := rfl
@[simp] theorem setCrcAcc_outTag (c : Half) : (setCrcAcc c s).outTag = s.outTag := rfl
@[simp] theorem setCrcAcc_outValue (c : Half) : (setCrcAcc c s).outValue = s.outValue := rfl
@[simp] theorem setCrcAcc_rspValid (c : Half) : (setCrcAcc c s).rspValid = s.rspValid := rfl
@[simp] theorem setCrcAcc_txf (c : Half) : (setCrcAcc c s).txf = s.txf := rfl
@[simp] theorem setCrcAcc_txLen (c : Half) : (setCrcAcc c s).txLen = s.txLen := rfl
@[simp] theorem setCrcAcc_rxb (c : Half) : (setCrcAcc c s).rxb = s.rxb := rfl
@[simp] theorem setCrcAcc_rxLen (c : Half) : (setCrcAcc c s).rxLen = s.rxLen := rfl
@[simp] theorem setCrcAcc_crcAcc (c : Half) : (setCrcAcc c s).crcAcc = c := rfl
@[simp] theorem setCrcAcc_guardUs (c : Half) : (setCrcAcc c s).guardUs = s.guardUs := rfl
@[simp] theorem setCrcAcc_chan (c : Half) : (setCrcAcc c s).chan = s.chan := rfl
@[simp] theorem setCrcAcc_gpio (c : Half) : (setCrcAcc c s).gpio = s.gpio := rfl
@[simp] theorem setCrcAcc_inputs (c : Half) : (setCrcAcc c s).inputs = s.inputs := rfl
@[simp] theorem setCrcAcc_script (c : Half) : (setCrcAcc c s).script = s.script := rfl
@[simp] theorem setCrcAcc_fresh (c : Half) : (setCrcAcc c s).fresh = s.fresh := rfl
@[simp] theorem setCrcAcc_result (c : Half) : (setCrcAcc c s).result = s.result := rfl
@[simp] theorem setCrcAcc_trace (c : Half) : (setCrcAcc c s).trace = s.trace := rfl
@[simp] theorem setCrcAcc_seqLog (c : Half) : (setCrcAcc c s).seqLog = s.seqLog := rfl

/-! ### setGuardUs -/
@[simp] theorem setGuardUs_cfg (g : Word) : (setGuardUs g s).cfg = s.cfg := rfl
@[simp] theorem setGuardUs_initialised (g : Word) : (setGuardUs g s).initialised = s.initialised := rfl
@[simp] theorem setGuardUs_txMode (g : Word) : (setGuardUs g s).txMode = s.txMode := rfl
@[simp] theorem setGuardUs_busy (g : Word) : (setGuardUs g s).busy = s.busy := rfl
@[simp] theorem setGuardUs_seq (g : Word) : (setGuardUs g s).seq = s.seq := rfl
@[simp] theorem setGuardUs_attempt (g : Word) : (setGuardUs g s).attempt = s.attempt := rfl
@[simp] theorem setGuardUs_poll (g : Word) : (setGuardUs g s).poll = s.poll := rfl
@[simp] theorem setGuardUs_req (g : Word) : (setGuardUs g s).req = s.req := rfl
@[simp] theorem setGuardUs_outTag (g : Word) : (setGuardUs g s).outTag = s.outTag := rfl
@[simp] theorem setGuardUs_outValue (g : Word) : (setGuardUs g s).outValue = s.outValue := rfl
@[simp] theorem setGuardUs_rspValid (g : Word) : (setGuardUs g s).rspValid = s.rspValid := rfl
@[simp] theorem setGuardUs_txf (g : Word) : (setGuardUs g s).txf = s.txf := rfl
@[simp] theorem setGuardUs_txLen (g : Word) : (setGuardUs g s).txLen = s.txLen := rfl
@[simp] theorem setGuardUs_rxb (g : Word) : (setGuardUs g s).rxb = s.rxb := rfl
@[simp] theorem setGuardUs_rxLen (g : Word) : (setGuardUs g s).rxLen = s.rxLen := rfl
@[simp] theorem setGuardUs_crcAcc (g : Word) : (setGuardUs g s).crcAcc = s.crcAcc := rfl
@[simp] theorem setGuardUs_guardUs (g : Word) : (setGuardUs g s).guardUs = g := rfl
@[simp] theorem setGuardUs_chan (g : Word) : (setGuardUs g s).chan = s.chan := rfl
@[simp] theorem setGuardUs_gpio (g : Word) : (setGuardUs g s).gpio = s.gpio := rfl
@[simp] theorem setGuardUs_inputs (g : Word) : (setGuardUs g s).inputs = s.inputs := rfl
@[simp] theorem setGuardUs_script (g : Word) : (setGuardUs g s).script = s.script := rfl
@[simp] theorem setGuardUs_fresh (g : Word) : (setGuardUs g s).fresh = s.fresh := rfl
@[simp] theorem setGuardUs_result (g : Word) : (setGuardUs g s).result = s.result := rfl
@[simp] theorem setGuardUs_trace (g : Word) : (setGuardUs g s).trace = s.trace := rfl
@[simp] theorem setGuardUs_seqLog (g : Word) : (setGuardUs g s).seqLog = s.seqLog := rfl

/-! ### setResult -/
@[simp] theorem setResult_cfg (r : OpResult) : (setResult r s).cfg = s.cfg := rfl
@[simp] theorem setResult_initialised (r : OpResult) : (setResult r s).initialised = s.initialised := rfl
@[simp] theorem setResult_txMode (r : OpResult) : (setResult r s).txMode = s.txMode := rfl
@[simp] theorem setResult_busy (r : OpResult) : (setResult r s).busy = s.busy := rfl
@[simp] theorem setResult_seq (r : OpResult) : (setResult r s).seq = s.seq := rfl
@[simp] theorem setResult_attempt (r : OpResult) : (setResult r s).attempt = s.attempt := rfl
@[simp] theorem setResult_poll (r : OpResult) : (setResult r s).poll = s.poll := rfl
@[simp] theorem setResult_req (r : OpResult) : (setResult r s).req = s.req := rfl
@[simp] theorem setResult_outTag (r : OpResult) : (setResult r s).outTag = s.outTag := rfl
@[simp] theorem setResult_outValue (r : OpResult) : (setResult r s).outValue = s.outValue := rfl
@[simp] theorem setResult_rspValid (r : OpResult) : (setResult r s).rspValid = s.rspValid := rfl
@[simp] theorem setResult_txf (r : OpResult) : (setResult r s).txf = s.txf := rfl
@[simp] theorem setResult_txLen (r : OpResult) : (setResult r s).txLen = s.txLen := rfl
@[simp] theorem setResult_rxb (r : OpResult) : (setResult r s).rxb = s.rxb := rfl
@[simp] theorem setResult_rxLen (r : OpResult) : (setResult r s).rxLen = s.rxLen := rfl
@[simp] theorem setResult_crcAcc (r : OpResult) : (setResult r s).crcAcc = s.crcAcc := rfl
@[simp] theorem setResult_guardUs (r : OpResult) : (setResult r s).guardUs = s.guardUs := rfl
@[simp] theorem setResult_chan (r : OpResult) : (setResult r s).chan = s.chan := rfl
@[simp] theorem setResult_gpio (r : OpResult) : (setResult r s).gpio = s.gpio := rfl
@[simp] theorem setResult_inputs (r : OpResult) : (setResult r s).inputs = s.inputs := rfl
@[simp] theorem setResult_script (r : OpResult) : (setResult r s).script = s.script := rfl
@[simp] theorem setResult_fresh (r : OpResult) : (setResult r s).fresh = s.fresh := rfl
@[simp] theorem setResult_result (r : OpResult) : (setResult r s).result = r := rfl
@[simp] theorem setResult_trace (r : OpResult) : (setResult r s).trace = s.trace := rfl
@[simp] theorem setResult_seqLog (r : OpResult) : (setResult r s).seqLog = s.seqLog := rfl

/-! ### setInputs -/
@[simp] theorem setInputs_cfg (l : List Input) : (setInputs l s).cfg = s.cfg := rfl
@[simp] theorem setInputs_initialised (l : List Input) : (setInputs l s).initialised = s.initialised := rfl
@[simp] theorem setInputs_txMode (l : List Input) : (setInputs l s).txMode = s.txMode := rfl
@[simp] theorem setInputs_busy (l : List Input) : (setInputs l s).busy = s.busy := rfl
@[simp] theorem setInputs_seq (l : List Input) : (setInputs l s).seq = s.seq := rfl
@[simp] theorem setInputs_attempt (l : List Input) : (setInputs l s).attempt = s.attempt := rfl
@[simp] theorem setInputs_poll (l : List Input) : (setInputs l s).poll = s.poll := rfl
@[simp] theorem setInputs_req (l : List Input) : (setInputs l s).req = s.req := rfl
@[simp] theorem setInputs_outTag (l : List Input) : (setInputs l s).outTag = s.outTag := rfl
@[simp] theorem setInputs_outValue (l : List Input) : (setInputs l s).outValue = s.outValue := rfl
@[simp] theorem setInputs_rspValid (l : List Input) : (setInputs l s).rspValid = s.rspValid := rfl
@[simp] theorem setInputs_txf (l : List Input) : (setInputs l s).txf = s.txf := rfl
@[simp] theorem setInputs_txLen (l : List Input) : (setInputs l s).txLen = s.txLen := rfl
@[simp] theorem setInputs_rxb (l : List Input) : (setInputs l s).rxb = s.rxb := rfl
@[simp] theorem setInputs_rxLen (l : List Input) : (setInputs l s).rxLen = s.rxLen := rfl
@[simp] theorem setInputs_crcAcc (l : List Input) : (setInputs l s).crcAcc = s.crcAcc := rfl
@[simp] theorem setInputs_guardUs (l : List Input) : (setInputs l s).guardUs = s.guardUs := rfl
@[simp] theorem setInputs_chan (l : List Input) : (setInputs l s).chan = s.chan := rfl
@[simp] theorem setInputs_gpio (l : List Input) : (setInputs l s).gpio = s.gpio := rfl
@[simp] theorem setInputs_inputs (l : List Input) : (setInputs l s).inputs = l := rfl
@[simp] theorem setInputs_script (l : List Input) : (setInputs l s).script = s.script := rfl
@[simp] theorem setInputs_fresh (l : List Input) : (setInputs l s).fresh = s.fresh := rfl
@[simp] theorem setInputs_result (l : List Input) : (setInputs l s).result = s.result := rfl
@[simp] theorem setInputs_trace (l : List Input) : (setInputs l s).trace = s.trace := rfl
@[simp] theorem setInputs_seqLog (l : List Input) : (setInputs l s).seqLog = s.seqLog := rfl

/-! ### logAct -/
@[simp] theorem logAct_cfg (tok : Token) : (logAct tok s).cfg = s.cfg := rfl
@[simp] theorem logAct_initialised (tok : Token) : (logAct tok s).initialised = s.initialised := rfl
@[simp] theorem logAct_txMode (tok : Token) : (logAct tok s).txMode = s.txMode := rfl
@[simp] theorem logAct_busy (tok : Token) : (logAct tok s).busy = s.busy := rfl
@[simp] theorem logAct_seq (tok : Token) : (logAct tok s).seq = s.seq := rfl
@[simp] theorem logAct_attempt (tok : Token) : (logAct tok s).attempt = s.attempt := rfl
@[simp] theorem logAct_poll (tok : Token) : (logAct tok s).poll = s.poll := rfl
@[simp] theorem logAct_req (tok : Token) : (logAct tok s).req = s.req := rfl
@[simp] theorem logAct_outTag (tok : Token) : (logAct tok s).outTag = s.outTag := rfl
@[simp] theorem logAct_outValue (tok : Token) : (logAct tok s).outValue = s.outValue := rfl
@[simp] theorem logAct_rspValid (tok : Token) : (logAct tok s).rspValid = s.rspValid := rfl
@[simp] theorem logAct_txf (tok : Token) : (logAct tok s).txf = s.txf := rfl
@[simp] theorem logAct_txLen (tok : Token) : (logAct tok s).txLen = s.txLen := rfl
@[simp] theorem logAct_rxb (tok : Token) : (logAct tok s).rxb = s.rxb := rfl
@[simp] theorem logAct_rxLen (tok : Token) : (logAct tok s).rxLen = s.rxLen := rfl
@[simp] theorem logAct_crcAcc (tok : Token) : (logAct tok s).crcAcc = s.crcAcc := rfl
@[simp] theorem logAct_guardUs (tok : Token) : (logAct tok s).guardUs = s.guardUs := rfl
@[simp] theorem logAct_chan (tok : Token) : (logAct tok s).chan = s.chan := rfl
@[simp] theorem logAct_gpio (tok : Token) : (logAct tok s).gpio = s.gpio := rfl
@[simp] theorem logAct_inputs (tok : Token) : (logAct tok s).inputs = s.inputs := rfl
@[simp] theorem logAct_script (tok : Token) : (logAct tok s).script = s.script := rfl
@[simp] theorem logAct_fresh (tok : Token) : (logAct tok s).fresh = s.fresh := rfl
@[simp] theorem logAct_result (tok : Token) : (logAct tok s).result = s.result := rfl
@[simp] theorem logAct_trace (tok : Token) : (logAct tok s).trace = s.trace ++ [⟨tok, s.seq, s.txMode, s.attempt⟩] := rfl
@[simp] theorem logAct_seqLog (tok : Token) : (logAct tok s).seqLog = s.seqLog := rfl

/-! ### channelSteps -/
@[simp] theorem channelSteps_cfg (es : List ChannelEvent) : (channelSteps es s).cfg = s.cfg := rfl
@[simp] theorem channelSteps_initialised (es : List ChannelEvent) : (channelSteps es s).initialised = s.initialised := rfl
@[simp] theorem channelSteps_txMode (es : List ChannelEvent) : (channelSteps es s).txMode = s.txMode := rfl
@[simp] theorem channelSteps_busy (es : List ChannelEvent) : (channelSteps es s).busy = s.busy := rfl
@[simp] theorem channelSteps_seq (es : List ChannelEvent) : (channelSteps es s).seq = s.seq := rfl
@[simp] theorem channelSteps_attempt (es : List ChannelEvent) : (channelSteps es s).attempt = s.attempt := rfl
@[simp] theorem channelSteps_poll (es : List ChannelEvent) : (channelSteps es s).poll = s.poll := rfl
@[simp] theorem channelSteps_req (es : List ChannelEvent) : (channelSteps es s).req = s.req := rfl
@[simp] theorem channelSteps_outTag (es : List ChannelEvent) : (channelSteps es s).outTag = s.outTag := rfl
@[simp] theorem channelSteps_outValue (es : List ChannelEvent) : (channelSteps es s).outValue = s.outValue := rfl
@[simp] theorem channelSteps_rspValid (es : List ChannelEvent) : (channelSteps es s).rspValid = s.rspValid := rfl
@[simp] theorem channelSteps_txf (es : List ChannelEvent) : (channelSteps es s).txf = s.txf := rfl
@[simp] theorem channelSteps_txLen (es : List ChannelEvent) : (channelSteps es s).txLen = s.txLen := rfl
@[simp] theorem channelSteps_rxb (es : List ChannelEvent) : (channelSteps es s).rxb = s.rxb := rfl
@[simp] theorem channelSteps_rxLen (es : List ChannelEvent) : (channelSteps es s).rxLen = s.rxLen := rfl
@[simp] theorem channelSteps_crcAcc (es : List ChannelEvent) : (channelSteps es s).crcAcc = s.crcAcc := rfl
@[simp] theorem channelSteps_guardUs (es : List ChannelEvent) : (channelSteps es s).guardUs = s.guardUs := rfl
theorem channelSteps_chan (es : List ChannelEvent) : (channelSteps es s).chan = es.foldl (channelStep s.txMode) s.chan := rfl
@[simp] theorem channelSteps_gpio (es : List ChannelEvent) : (channelSteps es s).gpio = s.gpio := rfl
@[simp] theorem channelSteps_inputs (es : List ChannelEvent) : (channelSteps es s).inputs = s.inputs := rfl
@[simp] theorem channelSteps_script (es : List ChannelEvent) : (channelSteps es s).script = s.script := rfl
@[simp] theorem channelSteps_fresh (es : List ChannelEvent) : (channelSteps es s).fresh = s.fresh := rfl
@[simp] theorem channelSteps_result (es : List ChannelEvent) : (channelSteps es s).result = s.result := rfl
@[simp] theorem channelSteps_trace (es : List ChannelEvent) : (channelSteps es s).trace = s.trace := rfl
@[simp] theorem channelSteps_seqLog (es : List ChannelEvent) : (channelSteps es s).seqLog = s.seqLog := rfl

/-! ### endSlot -/
@[simp] theorem endSlot_cfg : (endSlot s).cfg = s.cfg := rfl
@[simp] theorem endSlot_initialised : (endSlot s).initialised = s.initialised := rfl
@[simp] theorem endSlot_txMode : (endSlot s).txMode = s.txMode := rfl
@[simp] theorem endSlot_busy : (endSlot s).busy = s.busy := rfl
@[simp] theorem endSlot_seq : (endSlot s).seq = s.seq := rfl
@[simp] theorem endSlot_attempt : (endSlot s).attempt = s.attempt := rfl
@[simp] theorem endSlot_poll : (endSlot s).poll = s.poll := rfl
@[simp] theorem endSlot_req : (endSlot s).req = s.req := rfl
@[simp] theorem endSlot_outTag : (endSlot s).outTag = s.outTag := rfl
@[simp] theorem endSlot_outValue : (endSlot s).outValue = s.outValue := rfl
@[simp] theorem endSlot_rspValid : (endSlot s).rspValid = s.rspValid := rfl
@[simp] theorem endSlot_txf : (endSlot s).txf = s.txf := rfl
@[simp] theorem endSlot_txLen : (endSlot s).txLen = s.txLen := rfl
@[simp] theorem endSlot_rxb : (endSlot s).rxb = s.rxb := rfl
@[simp] theorem endSlot_rxLen : (endSlot s).rxLen = s.rxLen := rfl
@[simp] theorem endSlot_crcAcc : (endSlot s).crcAcc = s.crcAcc := rfl
@[simp] theorem endSlot_guardUs : (endSlot s).guardUs = s.guardUs := rfl
@[simp] theorem endSlot_chan : (endSlot s).chan = s.chan := rfl
@[simp] theorem endSlot_gpio : (endSlot s).gpio = s.gpio := rfl
@[simp] theorem endSlot_inputs : (endSlot s).inputs = s.inputs := rfl
@[simp] theorem endSlot_script : (endSlot s).script = s.script.tail := rfl
@[simp] theorem endSlot_fresh : (endSlot s).fresh = s.fresh + 1 := rfl
@[simp] theorem endSlot_result : (endSlot s).result = s.result := rfl
@[simp] theorem endSlot_trace : (endSlot s).trace = s.trace := rfl
@[simp] theorem endSlot_seqLog : (endSlot s).seqLog = s.seqLog := rfl

/-! ### deliver -/
@[simp] theorem deliver_cfg (l : List Byte) : (deliver l s).cfg = s.cfg := rfl
@[simp] theorem deliver_initialised (l : List Byte) : (deliver l s).initialised = s.initialised := rfl
@[simp] theorem deliver_txMode (l : List Byte) : (deliver l s).txMode = s.txMode := rfl
@[simp] theorem deliver_busy (l : List Byte) : (deliver l s).busy = s.busy := rfl
@[simp] theorem deliver_seq (l : List Byte) : (deliver l s).seq = s.seq := rfl
@[simp] theorem deliver_attempt (l : List Byte) : (deliver l s).attempt = s.attempt := rfl
@[simp] theorem deliver_poll (l : List Byte) : (deliver l s).poll = s.poll := rfl
@[simp] theorem deliver_req (l : List Byte) : (deliver l s).req = s.req := rfl
@[simp] theorem deliver_outTag (l : List Byte) : (deliver l s).outTag = s.outTag := rfl
@[simp] theorem deliver_outValue (l : List Byte) : (deliver l s).outValue = s.outValue := rfl
@[simp] theorem deliver_rspValid (l : List Byte) : (deliver l s).rspValid = s.rspValid := rfl
@[simp] theorem deliver_txf (l : List Byte) : (deliver l s).txf = s.txf := rfl
@[simp] theorem deliver_txLen (l : List Byte) : (deliver l s).txLen = s.txLen := rfl
@[simp] theorem deliver_rxb (l : List Byte) : (deliver l s).rxb = s.rxb := rfl
@[simp] theorem deliver_rxLen (l : List Byte) : (deliver l s).rxLen = s.rxLen := rfl
@[simp] theorem deliver_crcAcc (l : List Byte) : (deliver l s).crcAcc = s.crcAcc := rfl
@[simp] theorem deliver_guardUs (l : List Byte) : (deliver l s).guardUs = s.guardUs := rfl
theorem deliver_chan (l : List Byte) : (deliver l s).chan =
    (l.zipIdx.map fun p => .arrive p.1 (Config.freeLoss (s.fresh + p.2))).foldl (channelStep s.txMode) s.chan := rfl
@[simp] theorem deliver_gpio (l : List Byte) : (deliver l s).gpio = s.gpio := rfl
@[simp] theorem deliver_inputs (l : List Byte) : (deliver l s).inputs = s.inputs := rfl
@[simp] theorem deliver_script (l : List Byte) : (deliver l s).script = s.script := rfl
@[simp] theorem deliver_fresh (l : List Byte) : (deliver l s).fresh = s.fresh + l.length := rfl
@[simp] theorem deliver_result (l : List Byte) : (deliver l s).result = s.result := rfl
@[simp] theorem deliver_trace (l : List Byte) : (deliver l s).trace = s.trace := rfl
@[simp] theorem deliver_seqLog (l : List Byte) : (deliver l s).seqLog = s.seqLog := rfl

/-! ### readWait -/
@[simp] theorem readWait_cfg : (readWait s).cfg = s.cfg := rfl
@[simp] theorem readWait_initialised : (readWait s).initialised = s.initialised := rfl
@[simp] theorem readWait_txMode : (readWait s).txMode = s.txMode := rfl
@[simp] theorem readWait_busy : (readWait s).busy = s.busy := rfl
@[simp] theorem readWait_seq : (readWait s).seq = s.seq := rfl
@[simp] theorem readWait_attempt : (readWait s).attempt = s.attempt := rfl
@[simp] theorem readWait_poll : (readWait s).poll = s.poll := rfl
@[simp] theorem readWait_req : (readWait s).req = s.req := rfl
@[simp] theorem readWait_outTag : (readWait s).outTag = s.outTag := rfl
@[simp] theorem readWait_outValue : (readWait s).outValue = s.outValue := rfl
@[simp] theorem readWait_rspValid : (readWait s).rspValid = s.rspValid := rfl
@[simp] theorem readWait_txf : (readWait s).txf = s.txf := rfl
@[simp] theorem readWait_txLen : (readWait s).txLen = s.txLen := rfl
@[simp] theorem readWait_rxb : (readWait s).rxb = s.rxb := rfl
@[simp] theorem readWait_rxLen : (readWait s).rxLen = s.rxLen := rfl
@[simp] theorem readWait_crcAcc : (readWait s).crcAcc = s.crcAcc := rfl
@[simp] theorem readWait_guardUs : (readWait s).guardUs = s.guardUs := rfl
@[simp] theorem readWait_gpio : (readWait s).gpio = s.gpio := rfl
@[simp] theorem readWait_inputs : (readWait s).inputs = s.inputs := rfl
@[simp] theorem readWait_script : (readWait s).script = s.script := rfl
@[simp] theorem readWait_fresh : (readWait s).fresh = s.fresh := rfl
@[simp] theorem readWait_result : (readWait s).result = s.result := rfl
@[simp] theorem readWait_trace : (readWait s).trace = s.trace := rfl
@[simp] theorem readWait_seqLog : (readWait s).seqLog = s.seqLog := rfl

/-! ### environment -/
@[simp] theorem environment_cfg : (environment s).cfg = s.cfg := rfl
@[simp] theorem environment_initialised : (environment s).initialised = s.initialised := rfl
@[simp] theorem environment_txMode : (environment s).txMode = s.txMode := rfl
@[simp] theorem environment_busy : (environment s).busy = s.busy := rfl
@[simp] theorem environment_seq : (environment s).seq = s.seq := rfl
@[simp] theorem environment_attempt : (environment s).attempt = s.attempt := rfl
@[simp] theorem environment_poll : (environment s).poll = s.poll := rfl
@[simp] theorem environment_req : (environment s).req = s.req := rfl
@[simp] theorem environment_outTag : (environment s).outTag = s.outTag := rfl
@[simp] theorem environment_outValue : (environment s).outValue = s.outValue := rfl
@[simp] theorem environment_rspValid : (environment s).rspValid = s.rspValid := rfl
@[simp] theorem environment_txf : (environment s).txf = s.txf := rfl
@[simp] theorem environment_txLen : (environment s).txLen = s.txLen := rfl
@[simp] theorem environment_rxb : (environment s).rxb = s.rxb := rfl
@[simp] theorem environment_rxLen : (environment s).rxLen = s.rxLen := rfl
@[simp] theorem environment_crcAcc : (environment s).crcAcc = s.crcAcc := rfl
@[simp] theorem environment_guardUs : (environment s).guardUs = s.guardUs := rfl
theorem environment_chan : (environment s).chan = (nextSlot s).events.foldl (channelStep s.txMode) s.chan := rfl
@[simp] theorem environment_gpio : (environment s).gpio = s.gpio := rfl
@[simp] theorem environment_inputs : (environment s).inputs = s.inputs := rfl
@[simp] theorem environment_script : (environment s).script = s.script.tail := rfl
@[simp] theorem environment_fresh : (environment s).fresh = s.fresh + 1 := rfl
@[simp] theorem environment_result : (environment s).result = s.result := rfl
@[simp] theorem environment_trace : (environment s).trace = s.trace := rfl
@[simp] theorem environment_seqLog : (environment s).seqLog = s.seqLog := rfl

/-! ### setRxq -/
@[simp] theorem setRxq_cfg (l : List Byte) : (setRxq l s).cfg = s.cfg := rfl
@[simp] theorem setRxq_initialised (l : List Byte) : (setRxq l s).initialised = s.initialised := rfl
@[simp] theorem setRxq_txMode (l : List Byte) : (setRxq l s).txMode = s.txMode := rfl
@[simp] theorem setRxq_busy (l : List Byte) : (setRxq l s).busy = s.busy := rfl
@[simp] theorem setRxq_seq (l : List Byte) : (setRxq l s).seq = s.seq := rfl
@[simp] theorem setRxq_attempt (l : List Byte) : (setRxq l s).attempt = s.attempt := rfl
@[simp] theorem setRxq_poll (l : List Byte) : (setRxq l s).poll = s.poll := rfl
@[simp] theorem setRxq_req (l : List Byte) : (setRxq l s).req = s.req := rfl
@[simp] theorem setRxq_outTag (l : List Byte) : (setRxq l s).outTag = s.outTag := rfl
@[simp] theorem setRxq_outValue (l : List Byte) : (setRxq l s).outValue = s.outValue := rfl
@[simp] theorem setRxq_rspValid (l : List Byte) : (setRxq l s).rspValid = s.rspValid := rfl
@[simp] theorem setRxq_txf (l : List Byte) : (setRxq l s).txf = s.txf := rfl
@[simp] theorem setRxq_txLen (l : List Byte) : (setRxq l s).txLen = s.txLen := rfl
@[simp] theorem setRxq_rxb (l : List Byte) : (setRxq l s).rxb = s.rxb := rfl
@[simp] theorem setRxq_rxLen (l : List Byte) : (setRxq l s).rxLen = s.rxLen := rfl
@[simp] theorem setRxq_crcAcc (l : List Byte) : (setRxq l s).crcAcc = s.crcAcc := rfl
@[simp] theorem setRxq_guardUs (l : List Byte) : (setRxq l s).guardUs = s.guardUs := rfl
@[simp] theorem setRxq_chan (l : List Byte) : (setRxq l s).chan = { s.chan with rxq := l } := rfl
@[simp] theorem setRxq_gpio (l : List Byte) : (setRxq l s).gpio = s.gpio := rfl
@[simp] theorem setRxq_inputs (l : List Byte) : (setRxq l s).inputs = s.inputs := rfl
@[simp] theorem setRxq_script (l : List Byte) : (setRxq l s).script = s.script := rfl
@[simp] theorem setRxq_fresh (l : List Byte) : (setRxq l s).fresh = s.fresh := rfl
@[simp] theorem setRxq_result (l : List Byte) : (setRxq l s).result = s.result := rfl
@[simp] theorem setRxq_trace (l : List Byte) : (setRxq l s).trace = s.trace := rfl
@[simp] theorem setRxq_seqLog (l : List Byte) : (setRxq l s).seqLog = s.seqLog := rfl

/-! ### appendTxPend -/
@[simp] theorem appendTxPend_cfg (l : List Byte) : (appendTxPend l s).cfg = s.cfg := rfl
@[simp] theorem appendTxPend_initialised (l : List Byte) : (appendTxPend l s).initialised = s.initialised := rfl
@[simp] theorem appendTxPend_txMode (l : List Byte) : (appendTxPend l s).txMode = s.txMode := rfl
@[simp] theorem appendTxPend_busy (l : List Byte) : (appendTxPend l s).busy = s.busy := rfl
@[simp] theorem appendTxPend_seq (l : List Byte) : (appendTxPend l s).seq = s.seq := rfl
@[simp] theorem appendTxPend_attempt (l : List Byte) : (appendTxPend l s).attempt = s.attempt := rfl
@[simp] theorem appendTxPend_poll (l : List Byte) : (appendTxPend l s).poll = s.poll := rfl
@[simp] theorem appendTxPend_req (l : List Byte) : (appendTxPend l s).req = s.req := rfl
@[simp] theorem appendTxPend_outTag (l : List Byte) : (appendTxPend l s).outTag = s.outTag := rfl
@[simp] theorem appendTxPend_outValue (l : List Byte) : (appendTxPend l s).outValue = s.outValue := rfl
@[simp] theorem appendTxPend_rspValid (l : List Byte) : (appendTxPend l s).rspValid = s.rspValid := rfl
@[simp] theorem appendTxPend_txf (l : List Byte) : (appendTxPend l s).txf = s.txf := rfl
@[simp] theorem appendTxPend_txLen (l : List Byte) : (appendTxPend l s).txLen = s.txLen := rfl
@[simp] theorem appendTxPend_rxb (l : List Byte) : (appendTxPend l s).rxb = s.rxb := rfl
@[simp] theorem appendTxPend_rxLen (l : List Byte) : (appendTxPend l s).rxLen = s.rxLen := rfl
@[simp] theorem appendTxPend_crcAcc (l : List Byte) : (appendTxPend l s).crcAcc = s.crcAcc := rfl
@[simp] theorem appendTxPend_guardUs (l : List Byte) : (appendTxPend l s).guardUs = s.guardUs := rfl
@[simp] theorem appendTxPend_chan (l : List Byte) : (appendTxPend l s).chan = { s.chan with txPend := s.chan.txPend ++ l } := rfl
@[simp] theorem appendTxPend_gpio (l : List Byte) : (appendTxPend l s).gpio = s.gpio := rfl
@[simp] theorem appendTxPend_inputs (l : List Byte) : (appendTxPend l s).inputs = s.inputs := rfl
@[simp] theorem appendTxPend_script (l : List Byte) : (appendTxPend l s).script = s.script := rfl
@[simp] theorem appendTxPend_fresh (l : List Byte) : (appendTxPend l s).fresh = s.fresh := rfl
@[simp] theorem appendTxPend_result (l : List Byte) : (appendTxPend l s).result = s.result := rfl
@[simp] theorem appendTxPend_trace (l : List Byte) : (appendTxPend l s).trace = s.trace := rfl
@[simp] theorem appendTxPend_seqLog (l : List Byte) : (appendTxPend l s).seqLog = s.seqLog := rfl

/-! ### resetChannel -/
@[simp] theorem resetChannel_cfg (c : ChannelSettings) : (resetChannel c s).cfg = s.cfg := rfl
@[simp] theorem resetChannel_initialised (c : ChannelSettings) : (resetChannel c s).initialised = s.initialised := rfl
@[simp] theorem resetChannel_txMode (c : ChannelSettings) : (resetChannel c s).txMode = s.txMode := rfl
@[simp] theorem resetChannel_busy (c : ChannelSettings) : (resetChannel c s).busy = s.busy := rfl
@[simp] theorem resetChannel_seq (c : ChannelSettings) : (resetChannel c s).seq = s.seq := rfl
@[simp] theorem resetChannel_attempt (c : ChannelSettings) : (resetChannel c s).attempt = s.attempt := rfl
@[simp] theorem resetChannel_poll (c : ChannelSettings) : (resetChannel c s).poll = s.poll := rfl
@[simp] theorem resetChannel_req (c : ChannelSettings) : (resetChannel c s).req = s.req := rfl
@[simp] theorem resetChannel_outTag (c : ChannelSettings) : (resetChannel c s).outTag = s.outTag := rfl
@[simp] theorem resetChannel_outValue (c : ChannelSettings) : (resetChannel c s).outValue = s.outValue := rfl
@[simp] theorem resetChannel_rspValid (c : ChannelSettings) : (resetChannel c s).rspValid = s.rspValid := rfl
@[simp] theorem resetChannel_txf (c : ChannelSettings) : (resetChannel c s).txf = s.txf := rfl
@[simp] theorem resetChannel_txLen (c : ChannelSettings) : (resetChannel c s).txLen = s.txLen := rfl
@[simp] theorem resetChannel_rxb (c : ChannelSettings) : (resetChannel c s).rxb = s.rxb := rfl
@[simp] theorem resetChannel_rxLen (c : ChannelSettings) : (resetChannel c s).rxLen = s.rxLen := rfl
@[simp] theorem resetChannel_crcAcc (c : ChannelSettings) : (resetChannel c s).crcAcc = s.crcAcc := rfl
@[simp] theorem resetChannel_guardUs (c : ChannelSettings) : (resetChannel c s).guardUs = s.guardUs := rfl
@[simp] theorem resetChannel_chan (c : ChannelSettings) : (resetChannel c s).chan = ⟨some c, Config.freeQueue s.fresh, Config.freeQueue (s.fresh + 1), s.chan.txLine⟩ := rfl
@[simp] theorem resetChannel_gpio (c : ChannelSettings) : (resetChannel c s).gpio = s.gpio := rfl
@[simp] theorem resetChannel_inputs (c : ChannelSettings) : (resetChannel c s).inputs = s.inputs := rfl
@[simp] theorem resetChannel_script (c : ChannelSettings) : (resetChannel c s).script = s.script := rfl
@[simp] theorem resetChannel_fresh (c : ChannelSettings) : (resetChannel c s).fresh = s.fresh + 2 := rfl
@[simp] theorem resetChannel_result (c : ChannelSettings) : (resetChannel c s).result = s.result := rfl
@[simp] theorem resetChannel_trace (c : ChannelSettings) : (resetChannel c s).trace = s.trace := rfl
@[simp] theorem resetChannel_seqLog (c : ChannelSettings) : (resetChannel c s).seqLog = s.seqLog := rfl

/-! ### driveLine -/
@[simp] theorem driveLine_cfg (b : Bool) : (driveLine b s).cfg = s.cfg := rfl
@[simp] theorem driveLine_initialised (b : Bool) : (driveLine b s).initialised = s.initialised := rfl
@[simp] theorem driveLine_txMode (b : Bool) : (driveLine b s).txMode = b := rfl
@[simp] theorem driveLine_busy (b : Bool) : (driveLine b s).busy = s.busy := rfl
@[simp] theorem driveLine_seq (b : Bool) : (driveLine b s).seq = s.seq := rfl
@[simp] theorem driveLine_attempt (b : Bool) : (driveLine b s).attempt = s.attempt := rfl
@[simp] theorem driveLine_poll (b : Bool) : (driveLine b s).poll = s.poll := rfl
@[simp] theorem driveLine_req (b : Bool) : (driveLine b s).req = s.req := rfl
@[simp] theorem driveLine_outTag (b : Bool) : (driveLine b s).outTag = s.outTag := rfl
@[simp] theorem driveLine_outValue (b : Bool) : (driveLine b s).outValue = s.outValue := rfl
@[simp] theorem driveLine_rspValid (b : Bool) : (driveLine b s).rspValid = s.rspValid := rfl
@[simp] theorem driveLine_txf (b : Bool) : (driveLine b s).txf = s.txf := rfl
@[simp] theorem driveLine_txLen (b : Bool) : (driveLine b s).txLen = s.txLen := rfl
@[simp] theorem driveLine_rxb (b : Bool) : (driveLine b s).rxb = s.rxb := rfl
@[simp] theorem driveLine_rxLen (b : Bool) : (driveLine b s).rxLen = s.rxLen := rfl
@[simp] theorem driveLine_crcAcc (b : Bool) : (driveLine b s).crcAcc = s.crcAcc := rfl
@[simp] theorem driveLine_guardUs (b : Bool) : (driveLine b s).guardUs = s.guardUs := rfl
@[simp] theorem driveLine_chan (b : Bool) : (driveLine b s).chan = s.chan := rfl
@[simp] theorem driveLine_gpio (b : Bool) : (driveLine b s).gpio = pinWrite (pinWrite s.gpio s.cfg.pinDe.toNat b) s.cfg.pinRe.toNat b := rfl
@[simp] theorem driveLine_inputs (b : Bool) : (driveLine b s).inputs = s.inputs := rfl
@[simp] theorem driveLine_script (b : Bool) : (driveLine b s).script = s.script := rfl
@[simp] theorem driveLine_fresh (b : Bool) : (driveLine b s).fresh = s.fresh := rfl
@[simp] theorem driveLine_result (b : Bool) : (driveLine b s).result = s.result := rfl
@[simp] theorem driveLine_trace (b : Bool) : (driveLine b s).trace = s.trace := rfl
@[simp] theorem driveLine_seqLog (b : Bool) : (driveLine b s).seqLog = s.seqLog := rfl

/-! ### loadTxf -/
@[simp] theorem loadTxf_cfg (n : Nat) (l : List Byte) : (loadTxf n l s).cfg = s.cfg := rfl
@[simp] theorem loadTxf_initialised (n : Nat) (l : List Byte) : (loadTxf n l s).initialised = s.initialised := rfl
@[simp] theorem loadTxf_txMode (n : Nat) (l : List Byte) : (loadTxf n l s).txMode = s.txMode := rfl
@[simp] theorem loadTxf_busy (n : Nat) (l : List Byte) : (loadTxf n l s).busy = s.busy := rfl
@[simp] theorem loadTxf_seq (n : Nat) (l : List Byte) : (loadTxf n l s).seq = s.seq := rfl
@[simp] theorem loadTxf_attempt (n : Nat) (l : List Byte) : (loadTxf n l s).attempt = s.attempt := rfl
@[simp] theorem loadTxf_poll (n : Nat) (l : List Byte) : (loadTxf n l s).poll = s.poll := rfl
@[simp] theorem loadTxf_req (n : Nat) (l : List Byte) : (loadTxf n l s).req = s.req := rfl
@[simp] theorem loadTxf_outTag (n : Nat) (l : List Byte) : (loadTxf n l s).outTag = s.outTag := rfl
@[simp] theorem loadTxf_outValue (n : Nat) (l : List Byte) : (loadTxf n l s).outValue = s.outValue := rfl
@[simp] theorem loadTxf_rspValid (n : Nat) (l : List Byte) : (loadTxf n l s).rspValid = s.rspValid := rfl
@[simp] theorem loadTxf_txLen (n : Nat) (l : List Byte) : (loadTxf n l s).txLen = n := rfl
@[simp] theorem loadTxf_rxb (n : Nat) (l : List Byte) : (loadTxf n l s).rxb = s.rxb := rfl
@[simp] theorem loadTxf_rxLen (n : Nat) (l : List Byte) : (loadTxf n l s).rxLen = s.rxLen := rfl
@[simp] theorem loadTxf_crcAcc (n : Nat) (l : List Byte) : (loadTxf n l s).crcAcc = s.crcAcc := rfl
@[simp] theorem loadTxf_guardUs (n : Nat) (l : List Byte) : (loadTxf n l s).guardUs = s.guardUs := rfl
@[simp] theorem loadTxf_chan (n : Nat) (l : List Byte) : (loadTxf n l s).chan = s.chan := rfl
@[simp] theorem loadTxf_gpio (n : Nat) (l : List Byte) : (loadTxf n l s).gpio = s.gpio := rfl
@[simp] theorem loadTxf_inputs (n : Nat) (l : List Byte) : (loadTxf n l s).inputs = s.inputs := rfl
@[simp] theorem loadTxf_script (n : Nat) (l : List Byte) : (loadTxf n l s).script = s.script := rfl
@[simp] theorem loadTxf_fresh (n : Nat) (l : List Byte) : (loadTxf n l s).fresh = s.fresh := rfl
@[simp] theorem loadTxf_result (n : Nat) (l : List Byte) : (loadTxf n l s).result = s.result := rfl
@[simp] theorem loadTxf_trace (n : Nat) (l : List Byte) : (loadTxf n l s).trace = s.trace := rfl
@[simp] theorem loadTxf_seqLog (n : Nat) (l : List Byte) : (loadTxf n l s).seqLog = s.seqLog := rfl

/-! ### clearRx -/
@[simp] theorem clearRx_cfg : (clearRx s).cfg = s.cfg := rfl
@[simp] theorem clearRx_initialised : (clearRx s).initialised = s.initialised := rfl
@[simp] theorem clearRx_txMode : (clearRx s).txMode = s.txMode := rfl
@[simp] theorem clearRx_busy : (clearRx s).busy = s.busy := rfl
@[simp] theorem clearRx_seq : (clearRx s).seq = s.seq := rfl
@[simp] theorem clearRx_attempt : (clearRx s).attempt = s.attempt := rfl
@[simp] theorem clearRx_poll : (clearRx s).poll = s.poll := rfl
@[simp] theorem clearRx_req : (clearRx s).req = s.req := rfl
@[simp] theorem clearRx_outTag : (clearRx s).outTag = s.outTag := rfl
@[simp] theorem clearRx_outValue : (clearRx s).outValue = s.outValue := rfl
@[simp] theorem clearRx_rspValid : (clearRx s).rspValid = s.rspValid := rfl
@[simp] theorem clearRx_txf : (clearRx s).txf = s.txf := rfl
@[simp] theorem clearRx_txLen : (clearRx s).txLen = s.txLen := rfl
@[simp] theorem clearRx_rxb : (clearRx s).rxb = s.rxb := rfl
@[simp] theorem clearRx_rxLen : (clearRx s).rxLen = 0 := rfl
@[simp] theorem clearRx_crcAcc : (clearRx s).crcAcc = s.crcAcc := rfl
@[simp] theorem clearRx_guardUs : (clearRx s).guardUs = s.guardUs := rfl
@[simp] theorem clearRx_chan : (clearRx s).chan = s.chan := rfl
@[simp] theorem clearRx_gpio : (clearRx s).gpio = s.gpio := rfl
@[simp] theorem clearRx_inputs : (clearRx s).inputs = s.inputs := rfl
@[simp] theorem clearRx_script : (clearRx s).script = s.script := rfl
@[simp] theorem clearRx_fresh : (clearRx s).fresh = s.fresh := rfl
@[simp] theorem clearRx_result : (clearRx s).result = s.result := rfl
@[simp] theorem clearRx_trace : (clearRx s).trace = s.trace := rfl
@[simp] theorem clearRx_seqLog : (clearRx s).seqLog = s.seqLog := rfl

/-! ### loadRxb -/
@[simp] theorem loadRxb_cfg (l : List Byte) : (loadRxb l s).cfg = s.cfg := rfl
@[simp] theorem loadRxb_initialised (l : List Byte) : (loadRxb l s).initialised = s.initialised := rfl
@[simp] theorem loadRxb_txMode (l : List Byte) : (loadRxb l s).txMode = s.txMode := rfl
@[simp] theorem loadRxb_busy (l : List Byte) : (loadRxb l s).busy = s.busy := rfl
@[simp] theorem loadRxb_seq (l : List Byte) : (loadRxb l s).seq = s.seq := rfl
@[simp] theorem loadRxb_attempt (l : List Byte) : (loadRxb l s).attempt = s.attempt := rfl
@[simp] theorem loadRxb_poll (l : List Byte) : (loadRxb l s).poll = s.poll := rfl
@[simp] theorem loadRxb_req (l : List Byte) : (loadRxb l s).req = s.req := rfl
@[simp] theorem loadRxb_outTag (l : List Byte) : (loadRxb l s).outTag = s.outTag := rfl
@[simp] theorem loadRxb_outValue (l : List Byte) : (loadRxb l s).outValue = s.outValue := rfl
@[simp] theorem loadRxb_rspValid (l : List Byte) : (loadRxb l s).rspValid = s.rspValid := rfl
@[simp] theorem loadRxb_txf (l : List Byte) : (loadRxb l s).txf = s.txf := rfl
@[simp] theorem loadRxb_txLen (l : List Byte) : (loadRxb l s).txLen = s.txLen := rfl
@[simp] theorem loadRxb_rxLen (l : List Byte) : (loadRxb l s).rxLen = l.length := rfl
@[simp] theorem loadRxb_crcAcc (l : List Byte) : (loadRxb l s).crcAcc = s.crcAcc := rfl
@[simp] theorem loadRxb_guardUs (l : List Byte) : (loadRxb l s).guardUs = s.guardUs := rfl
@[simp] theorem loadRxb_chan (l : List Byte) : (loadRxb l s).chan = s.chan := rfl
@[simp] theorem loadRxb_gpio (l : List Byte) : (loadRxb l s).gpio = s.gpio := rfl
@[simp] theorem loadRxb_inputs (l : List Byte) : (loadRxb l s).inputs = s.inputs := rfl
@[simp] theorem loadRxb_script (l : List Byte) : (loadRxb l s).script = s.script := rfl
@[simp] theorem loadRxb_fresh (l : List Byte) : (loadRxb l s).fresh = s.fresh + Config.readMax := rfl
@[simp] theorem loadRxb_result (l : List Byte) : (loadRxb l s).result = s.result := rfl
@[simp] theorem loadRxb_trace (l : List Byte) : (loadRxb l s).trace = s.trace := rfl
@[simp] theorem loadRxb_seqLog (l : List Byte) : (loadRxb l s).seqLog = s.seqLog := rfl

/-! ### advanceFresh -/
@[simp] theorem advanceFresh_cfg (n : Nat) : (advanceFresh n s).cfg = s.cfg := rfl
@[simp] theorem advanceFresh_initialised (n : Nat) : (advanceFresh n s).initialised = s.initialised := rfl
@[simp] theorem advanceFresh_txMode (n : Nat) : (advanceFresh n s).txMode = s.txMode := rfl
@[simp] theorem advanceFresh_busy (n : Nat) : (advanceFresh n s).busy = s.busy := rfl
@[simp] theorem advanceFresh_seq (n : Nat) : (advanceFresh n s).seq = s.seq := rfl
@[simp] theorem advanceFresh_attempt (n : Nat) : (advanceFresh n s).attempt = s.attempt := rfl
@[simp] theorem advanceFresh_poll (n : Nat) : (advanceFresh n s).poll = s.poll := rfl
@[simp] theorem advanceFresh_req (n : Nat) : (advanceFresh n s).req = s.req := rfl
@[simp] theorem advanceFresh_outTag (n : Nat) : (advanceFresh n s).outTag = s.outTag := rfl
@[simp] theorem advanceFresh_outValue (n : Nat) : (advanceFresh n s).outValue = s.outValue := rfl
@[simp] theorem advanceFresh_rspValid (n : Nat) : (advanceFresh n s).rspValid = s.rspValid := rfl
@[simp] theorem advanceFresh_txf (n : Nat) : (advanceFresh n s).txf = s.txf := rfl
@[simp] theorem advanceFresh_txLen (n : Nat) : (advanceFresh n s).txLen = s.txLen := rfl
@[simp] theorem advanceFresh_rxb (n : Nat) : (advanceFresh n s).rxb = s.rxb := rfl
@[simp] theorem advanceFresh_rxLen (n : Nat) : (advanceFresh n s).rxLen = s.rxLen := rfl
@[simp] theorem advanceFresh_crcAcc (n : Nat) : (advanceFresh n s).crcAcc = s.crcAcc := rfl
@[simp] theorem advanceFresh_guardUs (n : Nat) : (advanceFresh n s).guardUs = s.guardUs := rfl
@[simp] theorem advanceFresh_chan (n : Nat) : (advanceFresh n s).chan = s.chan := rfl
@[simp] theorem advanceFresh_gpio (n : Nat) : (advanceFresh n s).gpio = s.gpio := rfl
@[simp] theorem advanceFresh_inputs (n : Nat) : (advanceFresh n s).inputs = s.inputs := rfl
@[simp] theorem advanceFresh_script (n : Nat) : (advanceFresh n s).script = s.script := rfl
@[simp] theorem advanceFresh_fresh (n : Nat) : (advanceFresh n s).fresh = s.fresh + n := rfl
@[simp] theorem advanceFresh_result (n : Nat) : (advanceFresh n s).result = s.result := rfl
@[simp] theorem advanceFresh_trace (n : Nat) : (advanceFresh n s).trace = s.trace := rfl
@[simp] theorem advanceFresh_seqLog (n : Nat) : (advanceFresh n s).seqLog = s.seqLog := rfl

/-! ### accept -/
@[simp] theorem accept_cfg : (accept s).cfg = s.cfg := rfl
@[simp] theorem accept_initialised : (accept s).initialised = s.initialised := rfl
@[simp] theorem accept_txMode : (accept s).txMode = s.txMode := rfl
@[simp] theorem accept_busy : (accept s).busy = true := rfl
@[simp] theorem accept_seq : (accept s).seq = s.seq := rfl
@[simp] theorem accept_attempt : (accept s).attempt = s.attempt := rfl
@[simp] theorem accept_poll : (accept s).poll = s.poll := rfl
@[simp] theorem accept_req : (accept s).req = s.req := rfl
@[simp] theorem accept_outTag : (accept s).outTag = s.outTag := rfl
@[simp] theorem accept_outValue : (accept s).outValue = s.outValue := rfl
@[simp] theorem accept_rspValid : (accept s).rspValid = false := rfl
@[simp] theorem accept_txf : (accept s).txf = s.txf := rfl
@[simp] theorem accept_txLen : (accept s).txLen = s.txLen := rfl
@[simp] theorem accept_rxb : (accept s).rxb = s.rxb := rfl
@[simp] theorem accept_rxLen : (accept s).rxLen = s.rxLen := rfl
@[simp] theorem accept_crcAcc : (accept s).crcAcc = s.crcAcc := rfl
@[simp] theorem accept_guardUs : (accept s).guardUs = s.guardUs := rfl
@[simp] theorem accept_chan : (accept s).chan = s.chan := rfl
@[simp] theorem accept_gpio : (accept s).gpio = s.gpio := rfl
@[simp] theorem accept_inputs : (accept s).inputs = s.inputs := rfl
@[simp] theorem accept_script : (accept s).script = s.script := rfl
@[simp] theorem accept_fresh : (accept s).fresh = s.fresh := rfl
@[simp] theorem accept_result : (accept s).result = s.result := rfl
@[simp] theorem accept_trace : (accept s).trace = s.trace := rfl
@[simp] theorem accept_seqLog : (accept s).seqLog = s.seqLog := rfl

/-! ### complete -/
@[simp] theorem complete_cfg : (complete s).cfg = s.cfg := rfl
@[simp] theorem complete_initialised : (complete s).initialised = s.initialised := rfl
@[simp] theorem complete_txMode : (complete s).txMode = s.txMode := rfl
@[simp] theorem complete_busy : (complete s).busy = false := rfl
@[simp] theorem complete_seq : (complete s).seq = s.seq := rfl
@[simp] theorem complete_attempt : (complete s).attempt = s.attempt := rfl
@[simp] theorem complete_poll : (complete s).poll = s.poll := rfl
@[simp] theorem complete_req : (complete s).req = s.req := rfl
@[simp] theorem complete_outTag : (complete s).outTag = s.outTag := rfl
@[simp] theorem complete_outValue : (complete s).outValue = s.outValue := rfl
@[simp] theorem complete_rspValid : (complete s).rspValid = true := rfl
@[simp] theorem complete_txf : (complete s).txf = s.txf := rfl
@[simp] theorem complete_txLen : (complete s).txLen = s.txLen := rfl
@[simp] theorem complete_rxb : (complete s).rxb = s.rxb := rfl
@[simp] theorem complete_rxLen : (complete s).rxLen = s.rxLen := rfl
@[simp] theorem complete_crcAcc : (complete s).crcAcc = s.crcAcc := rfl
@[simp] theorem complete_guardUs : (complete s).guardUs = s.guardUs := rfl
@[simp] theorem complete_chan : (complete s).chan = s.chan := rfl
@[simp] theorem complete_gpio : (complete s).gpio = s.gpio := rfl
@[simp] theorem complete_inputs : (complete s).inputs = s.inputs := rfl
@[simp] theorem complete_script : (complete s).script = s.script := rfl
@[simp] theorem complete_fresh : (complete s).fresh = s.fresh := rfl
@[simp] theorem complete_result : (complete s).result = s.result := rfl
@[simp] theorem complete_trace : (complete s).trace = s.trace := rfl
@[simp] theorem complete_seqLog : (complete s).seqLog = s.seqLog := rfl

/-! ### setOutcome -/
@[simp] theorem setOutcome_cfg (o : ResponseOutcome) : (setOutcome o s).cfg = s.cfg := rfl
@[simp] theorem setOutcome_initialised (o : ResponseOutcome) : (setOutcome o s).initialised = s.initialised := rfl
@[simp] theorem setOutcome_txMode (o : ResponseOutcome) : (setOutcome o s).txMode = s.txMode := rfl
@[simp] theorem setOutcome_busy (o : ResponseOutcome) : (setOutcome o s).busy = s.busy := rfl
@[simp] theorem setOutcome_seq (o : ResponseOutcome) : (setOutcome o s).seq = s.seq := rfl
@[simp] theorem setOutcome_attempt (o : ResponseOutcome) : (setOutcome o s).attempt = s.attempt := rfl
@[simp] theorem setOutcome_poll (o : ResponseOutcome) : (setOutcome o s).poll = s.poll := rfl
@[simp] theorem setOutcome_req (o : ResponseOutcome) : (setOutcome o s).req = s.req := rfl
@[simp] theorem setOutcome_outTag (o : ResponseOutcome) : (setOutcome o s).outTag = tagOf o := rfl
@[simp] theorem setOutcome_outValue (o : ResponseOutcome) : (setOutcome o s).outValue = outcomeValue s.fresh o := rfl
@[simp] theorem setOutcome_rspValid (o : ResponseOutcome) : (setOutcome o s).rspValid = s.rspValid := rfl
@[simp] theorem setOutcome_txf (o : ResponseOutcome) : (setOutcome o s).txf = s.txf := rfl
@[simp] theorem setOutcome_txLen (o : ResponseOutcome) : (setOutcome o s).txLen = s.txLen := rfl
@[simp] theorem setOutcome_rxb (o : ResponseOutcome) : (setOutcome o s).rxb = s.rxb := rfl
@[simp] theorem setOutcome_rxLen (o : ResponseOutcome) : (setOutcome o s).rxLen = s.rxLen := rfl
@[simp] theorem setOutcome_crcAcc (o : ResponseOutcome) : (setOutcome o s).crcAcc = s.crcAcc := rfl
@[simp] theorem setOutcome_guardUs (o : ResponseOutcome) : (setOutcome o s).guardUs = s.guardUs := rfl
@[simp] theorem setOutcome_chan (o : ResponseOutcome) : (setOutcome o s).chan = s.chan := rfl
@[simp] theorem setOutcome_gpio (o : ResponseOutcome) : (setOutcome o s).gpio = s.gpio := rfl
@[simp] theorem setOutcome_inputs (o : ResponseOutcome) : (setOutcome o s).inputs = s.inputs := rfl
@[simp] theorem setOutcome_script (o : ResponseOutcome) : (setOutcome o s).script = s.script := rfl
@[simp] theorem setOutcome_fresh (o : ResponseOutcome) : (setOutcome o s).fresh = s.fresh + 1 := rfl
@[simp] theorem setOutcome_result (o : ResponseOutcome) : (setOutcome o s).result = s.result := rfl
@[simp] theorem setOutcome_trace (o : ResponseOutcome) : (setOutcome o s).trace = s.trace := rfl
@[simp] theorem setOutcome_seqLog (o : ResponseOutcome) : (setOutcome o s).seqLog = s.seqLog := rfl

/-! ### finish -/
@[simp] theorem finish_cfg (o : ResponseOutcome) : (finish o s).cfg = s.cfg := rfl
@[simp] theorem finish_initialised (o : ResponseOutcome) : (finish o s).initialised = s.initialised := rfl
@[simp] theorem finish_txMode (o : ResponseOutcome) : (finish o s).txMode = s.txMode := rfl
@[simp] theorem finish_busy (o : ResponseOutcome) : (finish o s).busy = false := rfl
@[simp] theorem finish_seq (o : ResponseOutcome) : (finish o s).seq = s.seq := rfl
@[simp] theorem finish_attempt (o : ResponseOutcome) : (finish o s).attempt = s.attempt := rfl
@[simp] theorem finish_poll (o : ResponseOutcome) : (finish o s).poll = s.poll := rfl
@[simp] theorem finish_req (o : ResponseOutcome) : (finish o s).req = s.req := rfl
@[simp] theorem finish_outTag (o : ResponseOutcome) : (finish o s).outTag = tagOf o := rfl
@[simp] theorem finish_outValue (o : ResponseOutcome) : (finish o s).outValue = outcomeValue (s.fresh + 1) o := rfl
@[simp] theorem finish_rspValid (o : ResponseOutcome) : (finish o s).rspValid = true := rfl
@[simp] theorem finish_txf (o : ResponseOutcome) : (finish o s).txf = s.txf := rfl
@[simp] theorem finish_txLen (o : ResponseOutcome) : (finish o s).txLen = s.txLen := rfl
@[simp] theorem finish_rxb (o : ResponseOutcome) : (finish o s).rxb = s.rxb := rfl
@[simp] theorem finish_rxLen (o : ResponseOutcome) : (finish o s).rxLen = s.rxLen := rfl
@[simp] theorem finish_crcAcc (o : ResponseOutcome) : (finish o s).crcAcc = s.crcAcc := rfl
@[simp] theorem finish_guardUs (o : ResponseOutcome) : (finish o s).guardUs = s.guardUs := rfl
@[simp] theorem finish_chan (o : ResponseOutcome) : (finish o s).chan = (environment s).chan := rfl
@[simp] theorem finish_gpio (o : ResponseOutcome) : (finish o s).gpio = s.gpio := rfl
@[simp] theorem finish_inputs (o : ResponseOutcome) : (finish o s).inputs = s.inputs := rfl
@[simp] theorem finish_script (o : ResponseOutcome) : (finish o s).script = s.script.tail := rfl
@[simp] theorem finish_fresh (o : ResponseOutcome) : (finish o s).fresh = s.fresh + 2 := rfl
@[simp] theorem finish_result (o : ResponseOutcome) : (finish o s).result = s.result := rfl
@[simp] theorem finish_trace (o : ResponseOutcome) : (finish o s).trace =
    s.trace ++ [⟨.finished o, s.seq, s.txMode, s.attempt⟩] := rfl
@[simp] theorem finish_seqLog (o : ResponseOutcome) : (finish o s).seqLog = s.seqLog := rfl

/-! ### finishNoResult -/
@[simp] theorem finishNoResult_cfg : (finishNoResult s).cfg = s.cfg := rfl
@[simp] theorem finishNoResult_initialised : (finishNoResult s).initialised = s.initialised := rfl
@[simp] theorem finishNoResult_txMode : (finishNoResult s).txMode = s.txMode := rfl
@[simp] theorem finishNoResult_busy : (finishNoResult s).busy = false := rfl
@[simp] theorem finishNoResult_seq : (finishNoResult s).seq = s.seq := rfl
@[simp] theorem finishNoResult_attempt : (finishNoResult s).attempt = s.attempt := rfl
@[simp] theorem finishNoResult_poll : (finishNoResult s).poll = s.poll := rfl
@[simp] theorem finishNoResult_req : (finishNoResult s).req = s.req := rfl
@[simp] theorem finishNoResult_outTag : (finishNoResult s).outTag = s.outTag := rfl
@[simp] theorem finishNoResult_outValue : (finishNoResult s).outValue = s.outValue := rfl
@[simp] theorem finishNoResult_rspValid : (finishNoResult s).rspValid = true := rfl
@[simp] theorem finishNoResult_txf : (finishNoResult s).txf = s.txf := rfl
@[simp] theorem finishNoResult_txLen : (finishNoResult s).txLen = s.txLen := rfl
@[simp] theorem finishNoResult_rxb : (finishNoResult s).rxb = s.rxb := rfl
@[simp] theorem finishNoResult_rxLen : (finishNoResult s).rxLen = s.rxLen := rfl
@[simp] theorem finishNoResult_crcAcc : (finishNoResult s).crcAcc = s.crcAcc := rfl
@[simp] theorem finishNoResult_guardUs : (finishNoResult s).guardUs = s.guardUs := rfl
@[simp] theorem finishNoResult_chan : (finishNoResult s).chan = (environment s).chan := rfl
@[simp] theorem finishNoResult_gpio : (finishNoResult s).gpio = s.gpio := rfl
@[simp] theorem finishNoResult_inputs : (finishNoResult s).inputs = s.inputs := rfl
@[simp] theorem finishNoResult_script : (finishNoResult s).script = s.script.tail := rfl
@[simp] theorem finishNoResult_fresh : (finishNoResult s).fresh = s.fresh + 1 := rfl
@[simp] theorem finishNoResult_result : (finishNoResult s).result = s.result := rfl
@[simp] theorem finishNoResult_trace : (finishNoResult s).trace = s.trace := rfl
@[simp] theorem finishNoResult_seqLog : (finishNoResult s).seqLog = s.seqLog := rfl

/-! ### forgetOutcome -/
@[simp] theorem forgetOutcome_cfg : (forgetOutcome s).cfg = s.cfg := rfl
@[simp] theorem forgetOutcome_initialised : (forgetOutcome s).initialised = s.initialised := rfl
@[simp] theorem forgetOutcome_txMode : (forgetOutcome s).txMode = s.txMode := rfl
@[simp] theorem forgetOutcome_busy : (forgetOutcome s).busy = s.busy := rfl
@[simp] theorem forgetOutcome_seq : (forgetOutcome s).seq = s.seq := rfl
@[simp] theorem forgetOutcome_attempt : (forgetOutcome s).attempt = s.attempt := rfl
@[simp] theorem forgetOutcome_poll : (forgetOutcome s).poll = s.poll := rfl
@[simp] theorem forgetOutcome_req : (forgetOutcome s).req = s.req := rfl
@[simp] theorem forgetOutcome_outTag : (forgetOutcome s).outTag = Config.freeTag s.fresh := rfl
@[simp] theorem forgetOutcome_outValue : (forgetOutcome s).outValue = Config.freeWord s.fresh := rfl
@[simp] theorem forgetOutcome_rspValid : (forgetOutcome s).rspValid = s.rspValid := rfl
@[simp] theorem forgetOutcome_txf : (forgetOutcome s).txf = s.txf := rfl
@[simp] theorem forgetOutcome_txLen : (forgetOutcome s).txLen = s.txLen := rfl
@[simp] theorem forgetOutcome_rxb : (forgetOutcome s).rxb = s.rxb := rfl
@[simp] theorem forgetOutcome_rxLen : (forgetOutcome s).rxLen = s.rxLen := rfl
@[simp] theorem forgetOutcome_crcAcc : (forgetOutcome s).crcAcc = s.crcAcc := rfl
@[simp] theorem forgetOutcome_guardUs : (forgetOutcome s).guardUs = s.guardUs := rfl
@[simp] theorem forgetOutcome_chan : (forgetOutcome s).chan = s.chan := rfl
@[simp] theorem forgetOutcome_gpio : (forgetOutcome s).gpio = s.gpio := rfl
@[simp] theorem forgetOutcome_inputs : (forgetOutcome s).inputs = s.inputs := rfl
@[simp] theorem forgetOutcome_script : (forgetOutcome s).script = s.script := rfl
@[simp] theorem forgetOutcome_fresh : (forgetOutcome s).fresh = s.fresh + 1 := rfl
@[simp] theorem forgetOutcome_result : (forgetOutcome s).result = s.result := rfl
@[simp] theorem forgetOutcome_trace : (forgetOutcome s).trace = s.trace := rfl
@[simp] theorem forgetOutcome_seqLog : (forgetOutcome s).seqLog = s.seqLog := rfl

/-! ### forgetValue -/
@[simp] theorem forgetValue_cfg : (forgetValue s).cfg = s.cfg := rfl
@[simp] theorem forgetValue_initialised : (forgetValue s).initialised = s.initialised := rfl
@[simp] theorem forgetValue_txMode : (forgetValue s).txMode = s.txMode := rfl
@[simp] theorem forgetValue_busy : (forgetValue s).busy = s.busy := rfl
@[simp] theorem forgetValue_seq : (forgetValue s).seq = s.seq := rfl
@[simp] theorem forgetValue_attempt : (forgetValue s).attempt = s.attempt := rfl
@[simp] theorem forgetValue_poll : (forgetValue s).poll = s.poll := rfl
@[simp] theorem forgetValue_req : (forgetValue s).req = s.req := rfl
@[simp] theorem forgetValue_outTag : (forgetValue s).outTag = s.outTag := rfl
@[simp] theorem forgetValue_outValue : (forgetValue s).outValue = Config.freeWord s.fresh := rfl
@[simp] theorem forgetValue_rspValid : (forgetValue s).rspValid = s.rspValid := rfl
@[simp] theorem forgetValue_txf : (forgetValue s).txf = s.txf := rfl
@[simp] theorem forgetValue_txLen : (forgetValue s).txLen = s.txLen := rfl
@[simp] theorem forgetValue_rxb : (forgetValue s).rxb = s.rxb := rfl
@[simp] theorem forgetValue_rxLen : (forgetValue s).rxLen = s.rxLen := rfl
@[simp] theorem forgetValue_crcAcc : (forgetValue s).crcAcc = s.crcAcc := rfl
@[simp] theorem forgetValue_guardUs : (forgetValue s).guardUs = s.guardUs := rfl
@[simp] theorem forgetValue_chan : (forgetValue s).chan = s.chan := rfl
@[simp] theorem forgetValue_gpio : (forgetValue s).gpio = s.gpio := rfl
@[simp] theorem forgetValue_inputs : (forgetValue s).inputs = s.inputs := rfl
@[simp] theorem forgetValue_script : (forgetValue s).script = s.script := rfl
@[simp] theorem forgetValue_fresh : (forgetValue s).fresh = s.fresh + 1 := rfl
@[simp] theorem forgetValue_result : (forgetValue s).result = s.result := rfl
@[simp] theorem forgetValue_trace : (forgetValue s).trace = s.trace := rfl
@[simp] theorem forgetValue_seqLog : (forgetValue s).seqLog = s.seqLog := rfl

end Sys2Proof.Machine
end

