-- ==== Sys2Proof/Laws/Buffers.lean ====
section
/-! SUPPORT. What the byte buffers hold after a load: `TXF[0 .. TXF_LEN]` and `RXB[0 .. RX_LEN]` are what was loaded. -/

namespace Sys2Proof.Machine

open Sys2Proof

/-- Reading back as many places as were loaded gives what was loaded. -/
theorem take_ofFn_load {n : Nat} (l : List Byte) (g : Fin n → Byte) (h : l.length ≤ n) :
    (Vector.ofFn fun i : Fin n => (l[i.val]?).getD (g i)).toList.take l.length = l := by
  apply List.ext_getElem
  · simp [h]
  · intro i h1 h2
    simp [h2]

/-- `TXF[0 .. TXF_LEN]` after a load is the frame loaded. -/
theorem txFrame_loadTxf (s : State) (n : Nat) (l : List Byte) (hn : n = l.length) (h : n ≤ Config.writeReqLen) :
    txFrame (loadTxf n l s) = l := by
  subst hn; exact take_ofFn_load l _ h

/-- `RXB[0 .. RX_LEN]` after a load is what was read. -/
@[simp] theorem rxFrame_loadRxb (s : State) (l : List Byte) (h : l.length ≤ Config.readMax) :
    rxFrame (loadRxb l s) = l :=
  take_ofFn_load l _ h

/-- A frame in TXF depends on TXF and TXF_LEN alone. -/
theorem txFrame_congr {s t : State} (h : t.txf = s.txf) (hl : t.txLen = s.txLen) : txFrame t = txFrame s := by
  simp [txFrame, h, hl]

/-- A response in RXB depends on RXB and RX_LEN alone. -/
theorem rxFrame_congr {s t : State} (h : t.rxb = s.rxb) (hl : t.rxLen = s.rxLen) : rxFrame t = rxFrame s := by
  simp [rxFrame, h, hl]

/-- Places of TXF beyond a loaded frame keep what they held. -/
theorem loadTxf_keeps (s : State) (n : Nat) (l : List Byte) (i : Fin Config.writeReqLen) (h : l.length ≤ i.val) :
    (loadTxf n l s).txf[i] = s.txf[i] := by
  simp [loadTxf, List.getElem?_eq_none h]

/-- The frames the codec builds: their lengths. -/
@[simp] theorem withChecksum_length (body : List Byte) : (withChecksum body).length = body.length + 2 := by
  simp [withChecksum]

/-- What a build operation leaves in `TXF[0 .. TXF_LEN]` (43_frame_codec.md rules R180, R182, R185). -/
theorem txFrame_buildFrame (n : Nat) (body : List Byte) (s : State) (hn : n = body.length + 2)
    (h : n ≤ Config.writeReqLen) : txFrame (buildFrame n body s) = withChecksum body :=
  txFrame_loadTxf _ n _ (by simp [hn]) h

@[simp] theorem readRequestBody_length (id f : Byte) (a : Half) : (readRequestBody id f a).length = 6 := rfl

@[simp] theorem writeRequestBody_length (id : Byte) (a v : Half) : (writeRequestBody id a v).length = 9 := rfl

@[simp] theorem readRequestFrame_length (id f : Byte) (a : Half) (lo hi : Byte) :
    (readRequestFrame id f a lo hi).length = 8 := rfl

@[simp] theorem writeRequestFrame_length (id : Byte) (a v : Half) (lo hi : Byte) :
    (writeRequestFrame id a v lo hi).length = 11 := rfl

@[simp] theorem writeResponseFrame_length (id : Byte) (a q : Half) (lo hi : Byte) :
    (writeResponseFrame id a q lo hi).length = 8 := rfl

@[simp] theorem readResponseFrame_length (id f n : Byte) (d : List Byte) (lo hi : Byte) :
    (readResponseFrame id f n d lo hi).length = d.length + 5 := by
  simp [readResponseFrame]

theorem txFrame_buildRead (id f : Byte) (a : Half) (s : State) :
    txFrame (buildRead id f a s) = withChecksum (readRequestBody id f a) := txFrame_buildFrame _ _ s rfl (by decide)

theorem txFrame_buildWrite (id : Byte) (a v : Half) (s : State) :
    txFrame (buildWrite id a v s) = withChecksum (writeRequestBody id a v) := txFrame_buildFrame _ _ s rfl (by decide)

end Sys2Proof.Machine
end

