-- ==== Sys2Proof/Laws/Channel.lean ====
section
/-! SUPPORT. What the environment can and cannot do to the channel (20_memory.md rules R65 to R72): it loses no byte on
the way out and changes no order, it never shortens RXQ, it touches no register. -/

namespace Sys2Proof.Machine

open Sys2Proof

@[simp] theorem channelStep_settings (m : Bool) (c : Channel) (e : ChannelEvent) :
    (channelStep m c e).settings = c.settings := by
  unfold channelStep; split
  · rfl
  · split <;> rfl

@[simp] theorem channelStep_written (m : Bool) (c : Channel) (e : ChannelEvent) :
    written (channelStep m c e) = written c := by
  unfold channelStep; split
  · rfl
  · split <;> simp_all [written]

theorem arrive_length_le (cap : Nat) (b : Byte) (o : Loss) (q : List Byte) : q.length ≤ (arrive cap b o q).length := by
  unfold arrive
  split
  · simp
  · split
    · simp
    · simp only [List.length_append, List.length_cons, List.length_nil, List.length_eraseIdx]; split <;> omega
    · simp

theorem channelStep_rxq_length (m : Bool) (c : Channel) (e : ChannelEvent) :
    c.rxq.length ≤ (channelStep m c e).rxq.length := by
  unfold channelStep; split
  · exact arrive_length_le _ _ _ _
  · split <;> simp

/-- Any number of environment steps: settings kept, no written byte lost or reordered, RXQ not shortened. -/
theorem channelSteps_spec (m : Bool) (es : List ChannelEvent) (c : Channel) :
    (es.foldl (channelStep m) c).settings = c.settings ∧ written (es.foldl (channelStep m) c) = written c ∧
    c.rxq.length ≤ (es.foldl (channelStep m) c).rxq.length := by
  induction es generalizing c with
  | nil => simp
  | cons e es ih =>
    obtain ⟨h1, h2, h3⟩ := ih (channelStep m c e)
    refine ⟨by simpa using h1, by simpa using h2, ?_⟩
    exact Nat.le_trans (channelStep_rxq_length m c e) h3

/-- TXLINE only grows (rule R65). -/
theorem channelSteps_txLine (m : Bool) (es : List ChannelEvent) (c : Channel) :
    c.txLine <+: (es.foldl (channelStep m) c).txLine := by
  induction es generalizing c with
  | nil => simp
  | cons e es ih =>
    refine List.IsPrefix.trans ?_ (ih _)
    unfold channelStep
    split
    · simp
    · split <;> simp

/-- The same of the state the steps leave. -/
@[simp] theorem channelSteps_settings (es : List ChannelEvent) (s : State) :
    (channelSteps es s).chan.settings = s.chan.settings := (channelSteps_spec _ _ _).1

@[simp] theorem channelSteps_written (es : List ChannelEvent) (s : State) :
    written (channelSteps es s).chan = written s.chan := (channelSteps_spec _ _ _).2.1

theorem channelSteps_rxq_length (es : List ChannelEvent) (s : State) :
    s.chan.rxq.length ≤ (channelSteps es s).chan.rxq.length := (channelSteps_spec _ _ _).2.2

@[simp] theorem channelSteps_nil (s : State) : channelSteps [] s = s := rfl

theorem environment_txLine (s : State) : s.chan.txLine <+: (environment s).chan.txLine := channelSteps_txLine _ _ _

@[simp] theorem environment_settings (s : State) : (environment s).chan.settings = s.chan.settings :=
  channelSteps_settings _ s

@[simp] theorem environment_written (s : State) : written (environment s).chan = written s.chan :=
  channelSteps_written _ s

theorem environment_rxq_length (s : State) : s.chan.rxq.length ≤ (environment s).chan.rxq.length :=
  channelSteps_rxq_length _ s

/-- An interaction point is environment steps and nothing else on the channel. -/
theorem environment_acted (s : State) : EnvironmentActed s.txMode s.chan (environment s).chan := ⟨_, rfl⟩

/-- What environment steps can do: settings kept, no written byte lost or reordered, TXLINE only longer, RXQ not shorter. -/
theorem EnvironmentActed.spec {m : Bool} {c d : Channel} (h : EnvironmentActed m c d) :
    d.settings = c.settings ∧ written d = written c ∧ c.txLine <+: d.txLine ∧ c.rxq.length ≤ d.rxq.length := by
  obtain ⟨es, rfl⟩ := h
  obtain ⟨h1, h2, h3⟩ := channelSteps_spec m es c
  exact ⟨h1, h2, channelSteps_txLine m es c, h3⟩

/-- With a quiet slot next the environment does nothing. -/
theorem environment_quiet {s : State} {rest : List Slot} (h : s.script = Slot.quiet :: rest) :
    environment s = { s with script := rest, fresh := s.fresh + 1 } := by
  simp [environment, nextSlot, h, Slot.quiet, endSlot]

/-! ### A frame delivered (rules R66, R72) -/

@[simp] theorem deliver_settings (l : List Byte) (s : State) : (deliver l s).chan.settings = s.chan.settings :=
  channelSteps_settings _ s

@[simp] theorem deliver_written (l : List Byte) (s : State) : written (deliver l s).chan = written s.chan :=
  channelSteps_written _ s

/-- Arrivals touch RXQ alone. -/
theorem channelStep_arrivals (m : Bool) (l : List (Byte × Loss)) (c : Channel) :
    ∃ q, (l.map fun p => ChannelEvent.arrive p.1 p.2).foldl (channelStep m) c = { c with rxq := q } ∧
      (c.rxq.length + l.length ≤ rxCapacity c → q = c.rxq ++ l.map Prod.fst) := by
  induction l generalizing c with
  | nil => exact ⟨c.rxq, rfl, by simp⟩
  | cons p l ih =>
    obtain ⟨q, h, hq⟩ := ih (channelStep m c (.arrive p.1 p.2))
    refine ⟨q, by rw [List.map_cons, List.foldl_cons, h]; rfl, fun hc => ?_⟩
    simp only [List.length_cons] at hc
    have hr : (channelStep m c (.arrive p.1 p.2)).rxq = c.rxq ++ [p.1] := by
      simp only [channelStep, arrive]; rw [if_pos (by omega)]
    have hcap : rxCapacity (channelStep m c (.arrive p.1 p.2)) = rxCapacity c := rfl
    rw [hr, hcap] at hq
    rw [hq (by simp; omega)]; simp

/-- A frame that reaches the block touches RXQ alone, and where there is room it stands there whole, behind what was there. -/
theorem deliver_spec (l : List Byte) (s : State) :
    ∃ q, deliver l s = { s with chan := { s.chan with rxq := q }, fresh := s.fresh + l.length } ∧
      (s.chan.rxq.length + l.length ≤ rxCapacity s.chan → q = s.chan.rxq ++ l) := by
  obtain ⟨q, h, hq⟩ := channelStep_arrivals s.txMode (l.zipIdx.map fun p => (p.1, Config.freeLoss (s.fresh + p.2))) s.chan
  refine ⟨q, ?_, fun hc => ?_⟩
  · rw [List.map_map] at h
    simp only [deliver, channelSteps]
    rw [← h]; rfl
  · have := hq (by simpa using hc)
    rwa [List.map_map, show (Prod.fst ∘ fun p : Byte × Nat => (p.1, Config.freeLoss (s.fresh + p.2))) = Prod.fst from rfl,
      List.zipIdx_map_fst] at this

/-! ### The read (rule R68) -/

/-- `ser_read_bytes` returns at least what was buffered at the call, up to `max`, and at most `max` (rule R68). -/
theorem readCount_bounds (max : Nat) (s : State) :
    min s.chan.rxq.length max ≤ readCount max s ∧ readCount max s ≤ max := by
  have h : s.chan.rxq.length ≤ (readWait s).chan.rxq.length := channelSteps_rxq_length _ s
  unfold readCount
  omega

/-- The number of bytes `ser_read_bytes` returns is the count. -/
theorem readBytes_length (max : Nat) (s : State) : (readBytes max s).length = readCount max s := by
  have : readCount max s ≤ (readWait s).chan.rxq.length := by unfold readCount; omega
  simp [readBytes, this]

/-- What `ser_read_bytes` returns and what it leaves are what RXQ held when its wait was over (rule R68). -/
theorem readBytes_append_rest (max : Nat) (s : State) :
    readBytes max s ++ (readWait s).chan.rxq.drop (readCount max s) = (readWait s).chan.rxq := List.take_append_drop _ _

/-- With a time-out of zero there is no wait: exactly the bytes buffered at the call, up to `max`, are returned
(42_serial_transport.md rule R168 (f)). -/
theorem readBytes_no_wait (max : Nat) (s : State) (h : Config.readTimeout = 0) :
    readBytes max s = s.chan.rxq.take max ∧ readCount max s = min s.chan.rxq.length max := by
  have hw : readWait s = s := by simp [readWait, eventsInWait, h]
  have hc : readCount max s = min s.chan.rxq.length max := by unfold readCount; rw [hw]; omega
  refine ⟨?_, hc⟩
  rw [readBytes, hw, hc]; apply List.take_eq_take_iff.2; omega

/-- The read keeps settings and written bytes. -/
@[simp] theorem serReadBytes_settings (max : Nat) (s : State) :
    (serReadBytes max s).chan.settings = s.chan.settings := by
  simp [serReadBytes, readWait]

@[simp] theorem serReadBytes_written (max : Nat) (s : State) : written (serReadBytes max s).chan = written s.chan := by
  have h : written (setRxq ((readWait s).chan.rxq.drop (readCount max s)) (readWait s)).chan = written s.chan :=
    channelSteps_written _ s
  simp only [serReadBytes, logAct_chan, endSlot_chan, channelSteps_written, h]

/-- With a quiet slot next the read takes the head of RXQ and nothing else happens. -/
theorem serReadBytes_quiet {s : State} {rest : List Slot} (max : Nat) (h : s.script = Slot.quiet :: rest) :
    readBytes max s = s.chan.rxq.take max ∧
    serReadBytes max s = logAct (.rx (s.chan.rxq.take max))
      { s with chan := { s.chan with rxq := s.chan.rxq.drop max }, script := rest, fresh := s.fresh + 1 } := by
  have hw : readWait s = s := by simp [readWait, eventsInWait, nextSlot, h, Slot.quiet]
  have hl : eventsAfterRead s = [] := by simp [eventsAfterRead, nextSlot, h, Slot.quiet]
  have hc : readCount max s = min s.chan.rxq.length max := by unfold readCount; rw [hw]; omega
  have hb : readBytes max s = s.chan.rxq.take max := by
    rw [readBytes, hw, hc]; apply List.take_eq_take_iff.2; omega
  have hd : s.chan.rxq.drop (min s.chan.rxq.length max) = s.chan.rxq.drop max := by
    by_cases hm : max ≤ s.chan.rxq.length
    · rw [Nat.min_eq_right hm]
    · rw [Nat.min_eq_left (by omega), List.drop_length, List.drop_eq_nil_of_le (by omega)]
  refine ⟨hb, ?_⟩
  rw [serReadBytes, hb, hw, hl, hc, hd]
  simp [endSlot, setRxq, h]

end Sys2Proof.Machine
end

