-- ==== Sys2Proof/Laws/Gpio.lean ====
section
/-! SUPPORT. The list of pin levels: read after write, and the canonical form every operation keeps. -/

namespace Sys2Proof.Machine

open Sys2Proof

/-- A pin reads as the level just written. -/
@[simp] theorem pinLevel_pinWrite_self (l : List (Nat × Bool)) (p : Nat) (v : Bool) :
    pinLevel (pinWrite l p v) p = some v := by
  induction l with
  | nil => simp [pinWrite, pinLevel]
  | cons a rest ih =>
    obtain ⟨q, w⟩ := a
    simp only [pinWrite]
    split
    · simp [pinLevel]
    · split
      · simp [pinLevel]
      · rename_i h; simp [pinLevel, ih, Ne.symm h]

/-- A write to one pin leaves every other pin alone. -/
theorem pinLevel_pinWrite_other (l : List (Nat × Bool)) {p q : Nat} (v : Bool) (h : q ≠ p) :
    pinLevel (pinWrite l p v) q = pinLevel l q := by
  induction l with
  | nil => simp [pinWrite, pinLevel, Ne.symm h]
  | cons a rest ih =>
    obtain ⟨r, w⟩ := a
    simp only [pinWrite]
    split
    · simp [pinLevel, Ne.symm h]
    · split
      · rename_i h1; subst h1; simp [pinLevel, Ne.symm h]
      · simp [pinLevel, ih]

/-- Every pin of the list after a write is the one written or was there before. -/
theorem mem_pinWrite {l : List (Nat × Bool)} {p : Nat} {v : Bool} {a : Nat × Bool} (h : a ∈ pinWrite l p v) :
    a = (p, v) ∨ a ∈ l := by
  induction l with
  | nil => simpa [pinWrite] using h
  | cons b rest ih =>
    obtain ⟨q, w⟩ := b
    simp only [pinWrite] at h
    split at h
    · simpa using h
    · split at h
      · rcases List.mem_cons.1 h with h | h
        · exact .inl h
        · exact .inr (List.mem_cons_of_mem _ h)
      · rcases List.mem_cons.1 h with h | h
        · exact .inr (h ▸ List.mem_cons_self)
        · exact (ih h).imp id (List.mem_cons_of_mem _)

/-- A write keeps the canonical form. -/
theorem pinWrite_wf {l : List (Nat × Bool)} (h : GpioWf l) (p : Nat) (v : Bool) : GpioWf (pinWrite l p v) := by
  induction l with
  | nil => simp [pinWrite]
  | cons b rest ih =>
    obtain ⟨q, w⟩ := b
    have hq := List.pairwise_cons.1 h
    simp only [pinWrite]
    split
    · rename_i hlt
      refine List.pairwise_cons.2 ⟨fun a ha => ?_, h⟩
      rcases List.mem_cons.1 ha with ha | ha
      · subst ha; exact hlt
      · exact Nat.lt_trans hlt (hq.1 a ha)
    · split
      · rename_i heq; subst heq; exact List.pairwise_cons.2 ⟨hq.1, hq.2⟩
      · refine List.pairwise_cons.2 ⟨fun a ha => ?_, ih hq.2⟩
        rcases mem_pinWrite ha with ha | ha
        · subst ha; simp only; omega
        · exact hq.1 a ha

/-- SET_TRANSMIT keeps the canonical form of the pin levels. -/
theorem setTransmit_gpio_wf {s : State} (h : GpioWf s.gpio) (b : Bool) : GpioWf (setTransmit b s).gpio := by
  simpa [setTransmit] using pinWrite_wf (pinWrite_wf h _ b) _ b

/-- SET_TRANSMIT leaves every other pin alone (rule R151). -/
theorem setTransmit_others (s : State) (b : Bool) {p : Nat} (h1 : p ≠ s.cfg.pinDe.toNat) (h2 : p ≠ s.cfg.pinRe.toNat) :
    pinLevel (setTransmit b s).gpio p = pinLevel s.gpio p := by
  simp [setTransmit, pinLevel_pinWrite_other _ _ h1, pinLevel_pinWrite_other _ _ h2]

/-- Writing the level a pin already has changes nothing. -/
theorem pinWrite_same {l : List (Nat × Bool)} (h : GpioWf l) {p : Nat} {v : Bool} (hp : pinLevel l p = some v) :
    pinWrite l p v = l := by
  induction l with
  | nil => simp [pinLevel] at hp
  | cons a rest ih =>
    obtain ⟨q, w⟩ := a
    have hq := List.pairwise_cons.1 h
    simp only [pinLevel] at hp
    by_cases hqp : q = p
    · subst hqp
      simp only [if_true, Option.some.injEq] at hp
      subst hp
      simp [pinWrite]
    · rw [if_neg hqp] at hp
      have hlt : ¬ p < q := by
        intro hlt
        have none_of : ∀ r : List (Nat × Bool), (∀ b ∈ r, q < b.1) → pinLevel r p = none := by
          intro r
          induction r with
          | nil => intro _; rfl
          | cons b r ih2 =>
            intro hb
            have := hb b (by simp)
            simp only [pinLevel]
            rw [if_neg (by omega)]
            exact ih2 fun c hc => hb c (by simp [hc])
        rw [none_of rest hq.1] at hp
        cases hp
      simp only [pinWrite]
      rw [if_neg hlt, if_neg fun hc => hqp hc.symm, ih hq.2 hp]

/-- The pin levels at reset are in canonical form. -/
theorem reset_gpio_wf : GpioWf State.reset.gpio := List.Pairwise.nil

/-- After SET_TRANSMIT both direction pins have the level of the mode (41_line_direction.md rule R151). -/
theorem setTransmit_pins (s : State) (b : Bool) :
    pinLevel (setTransmit b s).gpio s.cfg.pinDe.toNat = some b ∧
    pinLevel (setTransmit b s).gpio s.cfg.pinRe.toNat = some b := by
  refine ⟨?_, by simp [setTransmit]⟩
  by_cases h : s.cfg.pinDe.toNat = s.cfg.pinRe.toNat
  · simp [setTransmit, h]
  · simp [setTransmit, pinLevel_pinWrite_other _ _ h]

end Sys2Proof.Machine
end

