-- ==== Sys2Proof/Laws/Transport.lean ====
section
/-! SUPPORT. Everything the operations of the Serial Transport can do (42_serial_transport.md), said once: what an exchange
never writes, the trace of a write, and the two ways a response read ends. -/

namespace Sys2Proof.Machine

open Sys2Proof

/-- What no part of an exchange writes: the configuration, the request, the frame, the outcome, the guard time, BUSY. -/
structure Untouched (s t : State) : Prop where
  cfg : t.cfg = s.cfg
  initialised : t.initialised = s.initialised
  busy : t.busy = s.busy
  req : t.req = s.req
  outTag : t.outTag = s.outTag
  outValue : t.outValue = s.outValue
  rspValid : t.rspValid = s.rspValid
  txf : t.txf = s.txf
  txLen : t.txLen = s.txLen
  guardUs : t.guardUs = s.guardUs
  inputs : t.inputs = s.inputs
  result : t.result = s.result
  settings : t.chan.settings = s.chan.settings

theorem Untouched.rfl (s : State) : Untouched s s := by constructor <;> simp

theorem Untouched.trans {s t u : State} (h : Untouched s t) (k : Untouched t u) : Untouched s u where
  cfg := k.cfg.trans h.cfg
  initialised := k.initialised.trans h.initialised
  busy := k.busy.trans h.busy
  req := k.req.trans h.req
  outTag := k.outTag.trans h.outTag
  outValue := k.outValue.trans h.outValue
  rspValid := k.rspValid.trans h.rspValid
  txf := k.txf.trans h.txf
  txLen := k.txLen.trans h.txLen
  guardUs := k.guardUs.trans h.guardUs
  inputs := k.inputs.trans h.inputs
  result := k.result.trans h.result
  settings := k.settings.trans h.settings

/-- The frame in TXF stays. -/
theorem Untouched.txFrame {s t : State} (h : Untouched s t) : txFrame t = txFrame s := txFrame_congr h.txf h.txLen

/-- What a response read leaves alone besides: the line, the sequencer, the attempt number, the checksum register. -/
structure Listening (s t : State) : Prop where
  untouched : Untouched s t
  txMode : t.txMode = s.txMode
  gpio : t.gpio = s.gpio
  seq : t.seq = s.seq
  seqLog : t.seqLog = s.seqLog
  attempt : t.attempt = s.attempt
  crcAcc : t.crcAcc = s.crcAcc
  written : written t.chan = written s.chan

theorem Listening.trans {s t u : State} (h : Listening s t) (k : Listening t u) : Listening s u where
  untouched := h.untouched.trans k.untouched
  txMode := k.txMode.trans h.txMode
  gpio := k.gpio.trans h.gpio
  seq := k.seq.trans h.seq
  seqLog := k.seqLog.trans h.seqLog
  attempt := k.attempt.trans h.attempt
  crcAcc := k.crcAcc.trans h.crcAcc
  written := k.written.trans h.written

theorem listening_environment (s : State) : Listening s (environment s) := by
  refine ⟨⟨?_, ?_, ?_, ?_, ?_, ?_, ?_, ?_, ?_, ?_, ?_, ?_, ?_⟩, ?_, ?_, ?_, ?_, ?_, ?_, ?_⟩ <;> simp

/-- A poll: the count recorded and POLL advanced. -/
theorem listening_poll (n : BitVec 4) (s : State) : Listening s (setPoll n (logCount s)) := by
  refine ⟨⟨?_, ?_, ?_, ?_, ?_, ?_, ?_, ?_, ?_, ?_, ?_, ?_, ?_⟩, ?_, ?_, ?_, ?_, ?_, ?_, ?_⟩ <;> simp [logCount]

theorem listening_yield (n : Nat) (s : State) : Listening s (waitYield n s) := by
  refine ⟨⟨?_, ?_, ?_, ?_, ?_, ?_, ?_, ?_, ?_, ?_, ?_, ?_, ?_⟩, ?_, ?_, ?_, ?_, ?_, ?_, ?_⟩ <;> simp [waitYield]

theorem listening_read (s : State) : Listening s (readResponse s) := by
  have hw : written (readResponse s).chan = written s.chan := by
    rw [readResponse, loadRxb_chan, serReadBytes_written]
  have hs : (readResponse s).chan.settings = s.chan.settings := by
    rw [readResponse, loadRxb_chan, serReadBytes_settings]
  refine ⟨⟨?_, ?_, ?_, ?_, ?_, ?_, ?_, ?_, ?_, ?_, ?_, ?_, hs⟩, ?_, ?_, ?_, ?_, ?_, ?_, hw⟩ <;>
    simp [readResponse, serReadBytes]

theorem listening_start (s : State) : Listening s (clearRx (setPoll 0 s)) := by
  refine ⟨⟨?_, ?_, ?_, ?_, ?_, ?_, ?_, ?_, ?_, ?_, ?_, ?_, ?_⟩, ?_, ?_, ?_, ?_, ?_, ?_, ?_⟩ <;> simp

/-- T_WRITE (rule R163): its three actions in the trace, no written byte lost or reordered, registers untouched. -/
theorem transportWrite_spec (bytes : List Byte) (s : State) :
    (transportWrite bytes s).trace = s.trace ++ [⟨.flush, s.seq, s.txMode, s.attempt⟩,
      ⟨.tx bytes, s.seq, s.txMode, s.attempt⟩, ⟨.txwait, s.seq, s.txMode, s.attempt⟩] ∧
    written (transportWrite bytes s).chan = written s.chan ++ bytes ∧
    Untouched s (transportWrite bytes s) := by
  refine ⟨by simp [transportWrite, serWaitTxDone, serWriteBytes, serFlush], ?_, ?_⟩
  · have h1 : ∀ u : State, written (environment (logAct .txwait u)).chan = written u.chan := by
      intro u; rw [environment_written]; simp
    have h2 : ∀ u : State, written (serWriteBytes bytes u).chan = written u.chan ++ bytes := by
      intro u; simp [serWriteBytes, written]
    rw [transportWrite, serWaitTxDone, h1, h2, environment_written]
    simp [serFlush, written]
  · constructor <;> simp [transportWrite, serWaitTxDone, serWriteBytes, serFlush]

/-- What T_WRITE leaves alone besides. -/
theorem transportWrite_keeps (bytes : List Byte) (s : State) :
    (transportWrite bytes s).txMode = s.txMode ∧ (transportWrite bytes s).gpio = s.gpio ∧
    (transportWrite bytes s).seq = s.seq ∧ (transportWrite bytes s).seqLog = s.seqLog ∧
    (transportWrite bytes s).attempt = s.attempt ∧ (transportWrite bytes s).poll = s.poll ∧
    (transportWrite bytes s).rxb = s.rxb ∧ (transportWrite bytes s).rxLen = s.rxLen ∧
    (transportWrite bytes s).crcAcc = s.crcAcc := by
  simp [transportWrite, serWaitTxDone, serWriteBytes, serFlush]

/-- The response read itself (rule R166): one read, 6 to 16 bytes where more than 5 were buffered. -/
theorem readResponse_spec {s : State} (h : Config.rxThreshold < s.chan.rxq.length) :
    rxFrame (readResponse s) = readBytes Config.readMax s ∧ 6 ≤ (readResponse s).rxLen ∧ (readResponse s).rxLen ≤ 16 ∧
    (readResponse s).trace = s.trace ++ [⟨.rx (readBytes Config.readMax s), s.seq, s.txMode, s.attempt⟩] := by
  have hb := readCount_bounds Config.readMax s
  have hl := readBytes_length Config.readMax s
  have h6 : 6 ≤ min s.chan.rxq.length Config.readMax := by simp only [Config.rxThreshold, Config.readMax] at *; omega
  have h16 : Config.readMax = 16 := rfl
  exact ⟨rxFrame_loadRxb _ _ (by omega), by simp only [readResponse, loadRxb_rxLen]; omega,
    by simp only [readResponse, loadRxb_rxLen]; omega, by simp [readResponse, serReadBytes]⟩

/-- What a polling loop with `k` polls left can do, from `s` to `t` (rule R166): `counts` are the counts of its failing
polls, `new` its trace. -/
structure Polled (k : Nat) (s : State) (got : Bool) (t : State) (counts : List Nat) (new : List TraceEntry) : Prop where
  trace : t.trace = s.trace ++ new
  stamps : ∀ e ∈ new, e.seq = s.seq ∧ e.txMode = s.txMode ∧ e.attempt = s.attempt
  failing : ∀ c ∈ counts, c ≤ Config.rxThreshold
  listening : Listening s t
  ended : (got = true ∧ counts.length < k ∧ t.poll = s.poll + BitVec.ofNat 4 (counts.length + 1) ∧
      6 ≤ t.rxLen ∧ t.rxLen ≤ 16 ∧
      ∃ c, Config.rxThreshold < c ∧ tokens new = failedPolls counts ++ [.count c, .rx (rxFrame t)]) ∨
    (got = false ∧ counts.length = k ∧ t.poll = s.poll + BitVec.ofNat 4 k ∧ t.rxLen = s.rxLen ∧ t.rxb = s.rxb ∧
      tokens new = failedPolls counts)

/-- The polling loop does one of these (rules R165 to R168). -/
theorem pollLoop_spec (k : Nat) (s : State) :
    ∃ counts new, Polled k s (pollLoop k s).1 (pollLoop k s).2 counts new := by
  induction k generalizing s with
  | zero =>
    refine ⟨[], [], ?_⟩
    refine ⟨by simp [pollLoop], by simp, by simp, ?_, .inr ?_⟩
    · refine ⟨⟨?_, ?_, ?_, ?_, ?_, ?_, ?_, ?_, ?_, ?_, ?_, ?_, ?_⟩, ?_, ?_, ?_, ?_, ?_, ?_, ?_⟩ <;> simp [pollLoop]
    · simp [pollLoop, failedPolls, tokens]
  | succ k ih =>
    by_cases hc : Config.rxThreshold < serBufferedCount s
    · have hp : pollLoop (k + 1) s = (true, readResponse (environment (setPoll (s.poll + 1) (logCount s)))) := by
        simp [pollLoop, hc]
      set u := environment (setPoll (s.poll + 1) (logCount s)) with hu
      have hlen : Config.rxThreshold < u.chan.rxq.length := by
        refine Nat.lt_of_lt_of_le hc (Nat.le_trans ?_ (environment_rxq_length _))
        simp [logCount, serBufferedCount]
      obtain ⟨h1, h2, h3, h4⟩ := readResponse_spec hlen
      have hl : Listening s u := (listening_poll _ s).trans (listening_environment _)
      rw [hp]
      refine ⟨[], [⟨.count (serBufferedCount s), s.seq, s.txMode, s.attempt⟩,
        ⟨.rx (readBytes Config.readMax u), s.seq, s.txMode, s.attempt⟩], ?_, ?_, by simp, ?_, .inl ⟨rfl, by simp, ?_, h2, h3, ?_⟩⟩
      · rw [h4, hl.seq, hl.txMode, hl.attempt]
        simp [hu, logCount, serBufferedCount]
      · simp
      · exact hl.trans (listening_read u)
      · simp [readResponse, serReadBytes, hu]
      · exact ⟨_, hc, by simp [tokens, failedPolls, h1]⟩
    · have hp : pollLoop (k + 1) s = pollLoop k (waitYield Config.pollInterval (setPoll (s.poll + 1) (logCount s))) := by
        simp [pollLoop, hc]
      set u := waitYield Config.pollInterval (setPoll (s.poll + 1) (logCount s)) with hu
      have hl : Listening s u := (listening_poll _ s).trans (listening_yield _ _)
      have htr : u.trace = s.trace ++ [⟨.count (serBufferedCount s), s.seq, s.txMode, s.attempt⟩,
          ⟨.yield Config.pollInterval, s.seq, s.txMode, s.attempt⟩] := by
        simp [hu, waitYield, logCount]
      have hpoll : u.poll = s.poll + 1 := by simp [hu, waitYield]
      obtain ⟨counts, new, h⟩ := ih u
      rw [hp]
      refine ⟨serBufferedCount s :: counts, [⟨.count (serBufferedCount s), s.seq, s.txMode, s.attempt⟩,
        ⟨.yield Config.pollInterval, s.seq, s.txMode, s.attempt⟩] ++ new, ?_, ?_, ?_, hl.trans h.listening, ?_⟩
      · rw [h.trace, htr]; simp
      · intro e he
        rcases List.mem_append.1 he with he | he
        · simp only [List.mem_cons, List.not_mem_nil, or_false] at he
          rcases he with rfl | rfl <;> simp
        · obtain ⟨a, b, c⟩ := h.stamps e he
          exact ⟨a.trans hl.seq, b.trans hl.txMode, c.trans hl.attempt⟩
      · intro c hcm
        rcases List.mem_cons.1 hcm with rfl | hcm
        · exact Nat.le_of_not_lt hc
        · exact h.failing c hcm
      · have harith : ∀ n : Nat, s.poll + 1 + BitVec.ofNat 4 n = s.poll + BitVec.ofNat 4 (n + 1) := by
          intro n; apply BitVec.eq_of_toNat_eq; simp; omega
        rcases h.ended with ⟨a, b, c, d, e, x, hx, ht⟩ | ⟨a, b, c, d, e, ht⟩
        · refine .inl ⟨a, by simpa using b, ?_, d, e, x, hx, ?_⟩
          · rw [c, hpoll, harith]; simp
          · simp only [tokens, List.map_append] at ht ⊢; rw [ht]; simp [failedPolls]
        · refine .inr ⟨a, by simpa using b, ?_, ?_, ?_, ?_⟩
          · rw [c, hpoll, harith]
          · rw [d]; simp [hu, waitYield, logCount]
          · rw [e]; simp [hu, waitYield, logCount]
          · simp only [tokens, List.map_append] at ht ⊢; rw [ht]; simp [failedPolls]

/-- T_READ_RESPONSE from its start (rule R166): ten polls, RX_LEN cleared. -/
theorem transportReadResponse_spec (s : State) :
    ∃ counts new, Polled Config.pollCount (clearRx (setPoll 0 s)) (transportReadResponse s).1
      (transportReadResponse s).2 counts new :=
  pollLoop_spec _ _

end Sys2Proof.Machine
end

