-- ==== Sys2Proof/Laws/Transaction.lean ====
section
/-! SUPPORT. Everything a transaction can do (44_transaction_manager.md), said once: the trace of the transmit step, what
one attempt can answer, and what the retry loop can do. -/

namespace Sys2Proof.Machine

open Sys2Proof

/-- The trace of the transmit step (rule R216), each action with its sequencer state and line mode. -/
def transmitEntries (g : Word) (frame : List Byte) (a : BitVec 2) : List TraceEntry :=
  [⟨.line true, .transmitting, true, a⟩, ⟨.guard g, .transmitting, true, a⟩, ⟨.flush, .transmitting, true, a⟩,
    ⟨.tx frame, .transmitting, true, a⟩, ⟨.txwait, .transmitting, true, a⟩, ⟨.guard g, .lineSwitchDelay, true, a⟩,
    ⟨.line false, .lineSwitchDelay, false, a⟩]

theorem tokens_transmitEntries (g : Word) (frame : List Byte) (a : BitVec 2) :
    tokens (transmitEntries g frame a) = transmitTokens g frame := rfl

theorem transmitEntries_disciplined (g : Word) (frame : List Byte) (a : BitVec 2) :
    ∀ e ∈ transmitEntries g frame a, disciplined e = true := by
  simp [transmitEntries, disciplined]

theorem tokens_append (l m : List TraceEntry) : tokens (l ++ m) = tokens l ++ tokens m := by simp [tokens]

/-- The transmit step: trace, sequencer, line, and what it leaves alone. -/
theorem transmitStep_spec (s : State) :
    (transmitStep s).trace = s.trace ++ transmitEntries s.guardUs (txFrame s) s.attempt ∧
    (transmitStep s).seq = .lineSwitchDelay ∧
    (transmitStep s).seqLog = s.seqLog ++ [.transmitting, .lineSwitchDelay] ∧
    (transmitStep s).txMode = false ∧ (transmitStep s).attempt = s.attempt ∧
    (transmitStep s).crcAcc = s.crcAcc ∧ Untouched s (transmitStep s) := by
  have hw := fun b u => transportWrite_spec b u
  have hk := fun b u => transportWrite_keeps b u
  refine ⟨?_, ?_, ?_, ?_, ?_, ?_, ?_⟩
  · simp [transmitStep, setTransmit, waitBusyUs, (hw _ _).1, (hk _ _).1, (hk _ _).2.2.2.2.1,
      (hw _ _).2.2.guardUs, transmitEntries, txFrame]
  · simp [transmitStep, setTransmit, waitBusyUs]
  · simp [transmitStep, setTransmit, waitBusyUs, (hk _ _).2.2.2.1]
  · simp [transmitStep, setTransmit]
  · simp [transmitStep, setTransmit, waitBusyUs, (hk _ _).2.2.2.2.1]
  · simp [transmitStep, setTransmit, waitBusyUs, (hk _ _).2.2.2.2.2.2.2.2]
  · refine ⟨?_, ?_, ?_, ?_, ?_, ?_, ?_, ?_, ?_, ?_, ?_, ?_, ?_⟩ <;>
      simp [transmitStep, setTransmit, waitBusyUs, (hw _ _).2.2.cfg, (hw _ _).2.2.initialised, (hw _ _).2.2.busy,
        (hw _ _).2.2.req, (hw _ _).2.2.outTag, (hw _ _).2.2.outValue, (hw _ _).2.2.rspValid, (hw _ _).2.2.txf,
        (hw _ _).2.2.txLen, (hw _ _).2.2.guardUs, (hw _ _).2.2.inputs, (hw _ _).2.2.result, (hw _ _).2.2.settings]

/-- What the transmit step leaves behind it: the frame handed to the channel, the pins low, the pin list canonical. -/
theorem transmitStep_channel (s : State) :
    written (transmitStep s).chan = written s.chan ++ txFrame s ∧
    (GpioWf s.gpio → GpioWf (transmitStep s).gpio) ∧
    pinLevel (transmitStep s).gpio s.cfg.pinDe.toNat = some false ∧
    pinLevel (transmitStep s).gpio s.cfg.pinRe.toNat = some false ∧ otherPinsKept s (transmitStep s) := by
  have hw := fun b u => transportWrite_spec b u
  have hk := fun b u => transportWrite_keeps b u
  have henv : ∀ u : State, written (environment u).chan = written u.chan := environment_written
  have hgp : ∀ (g : Word) (u : State), (waitBusyUs g u).gpio = u.gpio := by intro g u; simp [waitBusyUs]
  have hwr : ∀ (g : Word) (u : State), written (waitBusyUs g u).chan = written u.chan := by
    intro g u; rw [waitBusyUs, henv]; simp
  have hst : ∀ (b : Bool) (u : State), written (setTransmit b u).chan = written u.chan := by
    intro b u; simp [setTransmit]
  refine ⟨?_, ?_, ?_⟩
  · simp only [transmitStep, hst, hwr, setSeq_chan, (hw _ _).2.1, henv]
    simp [setTransmit, waitBusyUs, txFrame]
  · intro h
    simp only [transmitStep]
    apply setTransmit_gpio_wf
    simp only [hgp, setSeq_gpio, (hk _ _).2.1]
    apply setTransmit_gpio_wf
    simpa using h
  · obtain ⟨x, hx, hc, hg⟩ : ∃ x, transmitStep s = setTransmit false x ∧ x.cfg = s.cfg ∧
        x.gpio = (setTransmit true (environment (setSeq .transmitting s))).gpio :=
      ⟨_, rfl, by simp [setTransmit, waitBusyUs, (hw _ _).2.2.cfg], by simp [waitBusyUs, (hk _ _).2.1]⟩
    refine ⟨?_, ?_, ?_⟩
    · rw [hx, ← hc]; exact (setTransmit_pins x false).1
    · rw [hx, ← hc]; exact (setTransmit_pins x false).2
    · intro p h1 h2
      rw [hx, setTransmit_others x false (by rwa [hc]) (by rwa [hc]), hg,
        setTransmit_others _ true (by simpa using h1) (by simpa using h2)]
      simp

/-- DECODE_RESPONSE never answers NoResponse or UnsupportedFunction (43_frame_codec.md rule R187). -/
theorem decodeBytes_kinds (n : Nat) (l : List Byte) :
    (∃ v, decodeBytes n l = .value v) ∨ decodeBytes n l = .checksumError ∨ decodeBytes n l = .undecodableFunction := by
  unfold decodeBytes
  split
  · simp
  · split
    · simp only; split
      · simp
      · split <;> simp
    · simp

/-- DECODE_RESPONSE writes the checksum register and numbers of free values only (rule R188). -/
theorem decodeWrites_spec (l : List Byte) (s : State) :
    ∃ c f, decodeWrites l s = { s with crcAcc := c, fresh := f } := by
  unfold decodeWrites
  split
  · exact ⟨s.crcAcc, s.fresh, rfl⟩
  · exact ⟨_, _, rfl⟩

/-- Where there are bytes enough for a checksum, DECODE_RESPONSE leaves it in `CRC_ACC` (rule R188). -/
theorem decodeWrites_checksum (l : List Byte) (s : State) (h : 4 ≤ l.length) :
    decodeWrites l s = { s with crcAcc := checksum (l.take (l.length - 2)), fresh := s.fresh + decodeDraws } := by
  unfold decodeWrites
  rw [if_neg (by omega)]
  rfl

/-- What a read left is told from RXB, RX_LEN and CRC_ACC alone. -/
theorem leavesResponse_congr {a : AttemptRecord} {s t : State} (h : leavesResponse a s) (hb : t.rxb = s.rxb)
    (hl : t.rxLen = s.rxLen) (hc : t.crcAcc = s.crcAcc) : leavesResponse a t := by
  obtain ⟨counts, read⟩ := a
  cases read with
  | none => exact hl.trans h
  | some r => exact ⟨(rxFrame_congr hb hl).trans h.1, hc.trans h.2⟩

/-- What one attempt can do, from `s` to `t` with outcome `o` (rule R216): its trace is the transmit step's and then
polls; it ends awaiting a response, with NoResponse, or validating one. -/
structure Attempted (s : State) (o : ResponseOutcome) (t : State) (a : AttemptRecord) (new : List TraceEntry) :
    Prop where
  trace : t.trace = s.trace ++ new
  tokens : tokens new = attemptTokens s.guardUs (txFrame s) a
  legal : legalAttempt a
  explained : explains o a
  left : leavesResponse a t
  disciplined : ∀ e ∈ new, disciplined e = true
  untouched : Untouched s t
  attempt : t.attempt = s.attempt
  txMode : t.txMode = false
  poll : t.poll.toNat ≤ Config.pollCount
  rxLen : t.rxLen ≤ Config.readMax
  written : written t.chan = written s.chan ++ txFrame s
  gpioWf : GpioWf s.gpio → GpioWf t.gpio
  pins : pinLevel t.gpio s.cfg.pinDe.toNat = some false ∧ pinLevel t.gpio s.cfg.pinRe.toNat = some false
  others : otherPinsKept s t
  ended : (o = .noResponse ∧ t.seq = .awaitingResponse ∧
      t.seqLog = s.seqLog ++ [.transmitting, .lineSwitchDelay, .awaitingResponse]) ∨
    (((∃ v, o = .value v) ∨ o = .checksumError ∨ o = .undecodableFunction) ∧ t.seq = .validating ∧
      t.seqLog = s.seqLog ++ [.transmitting, .lineSwitchDelay, .awaitingResponse, .validating])

theorem failedPolls_polling (l : List Nat) : ∀ p ∈ failedPolls l, isPolling p = true := by
  intro p hp
  simp only [failedPolls, List.mem_flatMap] at hp
  obtain ⟨k, _, hk⟩ := hp
  simp only [List.mem_cons, List.not_mem_nil, or_false] at hk
  rcases hk with rfl | rfl <;> rfl

theorem failedPolls_wait (l : List Nat) :
    ((failedPolls l).map waitBound).sum = l.length * Config.pollInterval * Config.tUnit := by
  induction l with
  | nil => simp [failedPolls]
  | cons a l ih =>
    simp only [failedPolls, List.flatMap_cons, List.map_append, List.sum_append] at ih ⊢
    rw [ih]
    simp only [List.map_cons, List.map_nil, waitBound, List.sum_cons, List.sum_nil, List.length_cons]
    ring

theorem disciplined_of_polling {e : TraceEntry} (h : isPolling e.tok = true) (hs : e.seq = .awaitingResponse)
    (hm : e.txMode = false) : disciplined e = true := by
  obtain ⟨tok, q, m, a⟩ := e
  subst hs hm
  cases tok <;> simp_all [isPolling, disciplined]

/-- What the await and validate steps of an attempt can do, from `s` to `t` with outcome `o` (rule R216). -/
structure Answered (s : State) (o : ResponseOutcome) (t : State) (a : AttemptRecord) (new : List TraceEntry) :
    Prop where
  trace : t.trace = s.trace ++ new
  tokens : tokens new = answerTokens a
  stamps : ∀ e ∈ new, isPolling e.tok = true ∧ e.seq = s.seq ∧ e.txMode = s.txMode ∧ e.attempt = s.attempt
  legal : legalAttempt a
  explained : explains o a
  left : leavesResponse a t
  untouched : Untouched s t
  txMode : t.txMode = s.txMode
  gpio : t.gpio = s.gpio
  attempt : t.attempt = s.attempt
  poll : t.poll.toNat ≤ Config.pollCount
  rxLen : t.rxLen ≤ Config.readMax
  written : written t.chan = written s.chan
  ended : (o = .noResponse ∧ t.seq = s.seq ∧ t.seqLog = s.seqLog) ∨
    (((∃ v, o = .value v) ∨ o = .checksumError ∨ o = .undecodableFunction) ∧ t.seq = .validating ∧
      t.seqLog = s.seqLog ++ [.validating])

/-- They do one of these. -/
theorem awaitAndValidate_spec (s : State) :
    ∃ a new, Answered s (awaitAndValidate s).1 (awaitAndValidate s).2 a new := by
  obtain ⟨counts, polls, hp⟩ := transportReadResponse_spec s
  have hl : Listening s (transportReadResponse s).2 := (listening_start s).trans hp.listening
  have htr : (transportReadResponse s).2.trace = s.trace ++ polls := by rw [hp.trace]; simp
  have hpoll : ∀ p ∈ tokens polls, isPolling p = true := by
    intro p hm
    rcases hp.ended with ⟨_, _, _, _, _, c, _, ht⟩ | ⟨_, _, _, _, _, ht⟩
    · rw [ht] at hm
      rcases List.mem_append.1 hm with hm | hm
      · exact failedPolls_polling _ p hm
      · simp only [List.mem_cons, List.not_mem_nil, or_false] at hm
        rcases hm with rfl | rfl <;> rfl
    · rw [ht] at hm; exact failedPolls_polling _ p hm
  have hst : ∀ e ∈ polls, isPolling e.tok = true ∧ e.seq = s.seq ∧ e.txMode = s.txMode ∧ e.attempt = s.attempt :=
    fun e he => ⟨hpoll _ (List.mem_map_of_mem he), hp.stamps e he⟩
  have hends : (transportReadResponse s).2.poll.toNat ≤ Config.pollCount ∧
      (transportReadResponse s).2.rxLen ≤ Config.readMax := by
    simp only [Config.pollCount, Config.readMax] at *
    rcases hp.ended with ⟨_, hlen, hpo, _, hrx, _⟩ | ⟨_, _, hpo, hrx, _⟩
    · refine ⟨?_, hrx⟩
      rw [hpo]; simp; omega
    · rw [hpo, hrx]; simp
  by_cases hgot : (transportReadResponse s).1 = true
  · have ha : awaitAndValidate s = validateStep (transportReadResponse s).2 := by simp [awaitAndValidate, hgot]
    obtain ⟨_, hlen, _, h6, h16, c, hcc, htk⟩ := hp.ended.resolve_right (by rw [hgot]; simp)
    have hrl : (rxFrame (transportReadResponse s).2).length = (transportReadResponse s).2.rxLen := by
      simp only [rxFrame, List.length_take, Vector.length_toList, Config.readMax]; omega
    have hd := decodeWrites_checksum (rxFrame (transportReadResponse s).2)
      (setSeq .validating (transportReadResponse s).2) (by omega)
    rw [ha]
    refine ⟨⟨counts, some (c, rxFrame (transportReadResponse s).2)⟩, polls, ?_, ?_, hst, ⟨hp.failing, hlen, hcc, ?_, ?_⟩,
      ⟨_, rfl⟩, ⟨?_, ?_⟩, ?_, ?_, ?_, ?_, ?_, ?_, ?_, .inr ⟨?_, ?_, ?_⟩⟩
    · simp [validateStep, hd, htr]
    · rw [htk]; rfl
    · rw [hrl]; exact h6
    · rw [hrl]; exact h16
    · exact rxFrame_congr (by simp [validateStep, hd]) (by simp [validateStep, hd])
    · simp [validateStep, hd]
    · refine hl.untouched.trans ?_
      refine ⟨?_, ?_, ?_, ?_, ?_, ?_, ?_, ?_, ?_, ?_, ?_, ?_, ?_⟩ <;> simp [validateStep, hd]
    · simp [validateStep, hd, hl.txMode]
    · simp [validateStep, hd, hl.gpio]
    · simp [validateStep, hd, hl.attempt]
    · simpa [validateStep, hd] using hends.1
    · simpa [validateStep, hd] using hends.2
    · simpa [validateStep, hd] using hl.written
    · exact decodeBytes_kinds _ _
    · simp [validateStep, hd]
    · simp [validateStep, hd, hl.seqLog]
  · have ha : awaitAndValidate s = (.noResponse, (transportReadResponse s).2) := by simp [awaitAndValidate, hgot]
    obtain ⟨_, hlen, _, hrx, _, htk⟩ := hp.ended.resolve_left (fun hc => hgot hc.1)
    rw [ha]
    exact ⟨⟨counts, none⟩, polls, htr, by rw [htk]; simp [answerTokens], hst, ⟨hp.failing, hlen⟩, rfl, hrx, hl.untouched,
      hl.txMode, hl.gpio, hl.attempt, hends.1, hends.2, hl.written, .inl ⟨rfl, hl.seq, hl.seqLog⟩⟩

/-- An attempt does one of these. -/
theorem attemptOnce_spec (s : State) : ∃ a new, Attempted s (attemptOnce s).1 (attemptOnce s).2 a new := by
  obtain ⟨h1, h2, h3, h4, h5, h6, h7⟩ := transmitStep_spec s
  obtain ⟨hc1, hc2, hc3, hc4, hc5⟩ := transmitStep_channel s
  set u := environment (setSeq .awaitingResponse (transmitStep s)) with hu
  have hus : Untouched (transmitStep s) u := by
    refine ⟨?_, ?_, ?_, ?_, ?_, ?_, ?_, ?_, ?_, ?_, ?_, ?_, ?_⟩ <;> simp [hu]
  have hug : u.gpio = (transmitStep s).gpio := by simp [hu]
  have hul : u.seqLog = s.seqLog ++ [.transmitting, .lineSwitchDelay, .awaitingResponse] := by simp [hu, h3]
  have huq : u.seq = .awaitingResponse := by simp [hu]
  have hum : u.txMode = false := by simp [hu, h4]
  have ha : attemptOnce s = awaitAndValidate u := rfl
  obtain ⟨a, polls, h⟩ := awaitAndValidate_spec u
  rw [ha]
  refine ⟨a, transmitEntries s.guardUs (txFrame s) s.attempt ++ polls, ?_, ?_, h.legal, h.explained, h.left, ?_,
    (h7.trans hus).trans h.untouched, ?_, h.txMode.trans hum, h.poll, h.rxLen, ?_, ?_, ?_, ?_, ?_⟩
  · rw [h.trace]; simp [hu, h1]
  · rw [tokens_append, tokens_transmitEntries, h.tokens]; rfl
  · intro e he
    rcases List.mem_append.1 he with he | he
    · exact transmitEntries_disciplined _ _ _ e he
    · obtain ⟨x, y, z, _⟩ := h.stamps e he
      exact disciplined_of_polling x (y.trans huq) (z.trans hum)
  · rw [h.attempt]; simp [hu, h5]
  · rw [h.written, ← hc1]; simp [hu]
  · rw [h.gpio, hug]; exact hc2
  · rw [h.gpio, hug]; exact ⟨hc3, hc4⟩
  · intro p p1 p2; rw [h.gpio, hug]; exact hc5 p p1 p2
  · rcases h.ended with ⟨x, y, z⟩ | ⟨x, y, z⟩
    · exact .inl ⟨x, y.trans huq, z.trans hul⟩
    · exact .inr ⟨x, y, by rw [z, hul]; simp⟩

/-- A path that starts with transmitting may follow any state that leads there. -/
theorem seqPath_from {q : SeqState} {rest : List SeqState} (h : seqEdge q .transmitting = true)
    (hr : SeqPath (.transmitting :: rest)) : SeqPath (q :: .transmitting :: rest) := .cons_cons h hr

/-- What the retry loop with `k` attempts left can do (rule R217): `atts` are its attempts. -/
structure Transacted (k : Nat) (s : State) (o : ResponseOutcome) (t : State) (atts : List AttemptRecord)
    (new : List TraceEntry) : Prop where
  trace : t.trace = s.trace ++ new
  tokens : tokens new = (atts.map (attemptTokens s.guardUs (txFrame s))).flatten ++
    (if isValue o then [.line true] else [])
  legal : ∀ a ∈ atts, legalAttempt a
  earlier : ∀ a ∈ atts.dropLast, explains .checksumError a
  last : ∃ a, atts.getLast? = some a ∧ explains o a ∧ leavesResponse a t
  disciplined : ∀ e ∈ new, disciplined e = true
  untouched : Untouched s t
  nonempty : 1 ≤ atts.length
  bounded : atts.length ≤ k
  attempt : t.attempt.toNat + 1 = s.attempt.toNat + atts.length
  txMode : t.txMode = isValue o
  exhausted : o = .checksumError → atts.length = k
  kind : o ≠ .unsupportedFunction
  poll : t.poll.toNat ≤ Config.pollCount
  rxLen : t.rxLen ≤ Config.readMax
  written : written t.chan = written s.chan ++ (List.replicate atts.length (txFrame s)).flatten
  gpioWf : GpioWf s.gpio → GpioWf t.gpio
  pins : pinLevel t.gpio s.cfg.pinDe.toNat = some t.txMode ∧ pinLevel t.gpio s.cfg.pinRe.toNat = some t.txMode
  others : otherPinsKept s t
  path : ∃ path, t.seqLog = s.seqLog ++ path ∧ path.getLast? = some t.seq ∧ seqEdge t.seq .idle = true ∧
    ∀ q, seqEdge q .transmitting = true → SeqPath (q :: path)

theorem Untouched.of_attempt (s : State) (n : BitVec 2) (q : SeqState) : Untouched s (setAttempt n (setSeq q s)) := by
  refine ⟨?_, ?_, ?_, ?_, ?_, ?_, ?_, ?_, ?_, ?_, ?_, ?_, ?_⟩ <;> simp

/-- The retry loop, entered with attempt number 4 - k, does one of these. -/
theorem transactLoop_spec (k : Nat) (s : State) (hk : k ≠ 0) (hs : s.attempt.toNat + k = Config.maxAttempts + 1) :
    ∃ atts new, Transacted k s (transactLoop k s).1 (transactLoop k s).2 atts new := by
  induction k generalizing s with
  | zero => exact absurd rfl hk
  | succ k ih =>
    obtain ⟨a, new, h⟩ := attemptOnce_spec s
    have hmax : Config.maxAttempts = 3 := rfl
    rcases h.ended with ⟨ho, hq, hlog⟩ | ⟨ho, hq, hlog⟩
    · -- no response
      have hr : transactLoop (k + 1) s = (.noResponse, (attemptOnce s).2) := by simp [transactLoop, ho]
      rw [hr]
      refine ⟨[a], new, h.trace, by simp [isValue, h.tokens], by simpa using h.legal, by simp, ⟨a, rfl, ho ▸ h.explained, h.left⟩,
        h.disciplined, h.untouched, by simp, by simp, ?_, ?_, by simp,
        by simp, h.poll, h.rxLen, by simpa using h.written, h.gpioWf, by simpa only [h.txMode] using h.pins, h.others, _, hlog,
        by simp [hq], by simp [hq, seqEdge], ?_⟩
      · simp [h.attempt]
      · simp [h.txMode, isValue]
      · intro q hqe; exact seqPath_from hqe (by simp [SeqPath, seqEdge])
    · rcases ho with ⟨v, ho⟩ | ho | ho
      · -- a value
        have hr : transactLoop (k + 1) s =
            (.value v, setTransmit true (environment (setSeq .decoded (attemptOnce s).2))) := by simp [transactLoop, ho]
        rw [hr]
        refine ⟨[a], new ++ [⟨.line true, .decoded, true, s.attempt⟩], ?_, ?_, by simpa using h.legal, by simp,
          ⟨a, rfl, ho ▸ h.explained, leavesResponse_congr h.left (by simp [setTransmit]) (by simp [setTransmit]) (by simp [setTransmit])⟩, ?_, ?_, by simp, by simp, ?_, ?_,
          by simp, by simp, ?_, ?_, ?_, ?_, ?_, ?_,
          [.transmitting, .lineSwitchDelay, .awaitingResponse, .validating, .decoded], ?_, ?_, ?_, ?_⟩
        · simp [setTransmit, h.trace, h.attempt]
        · rw [tokens_append, h.tokens]; simp [isValue, tokens]
        · intro e he
          rcases List.mem_append.1 he with he | he
          · exact h.disciplined e he
          · rw [List.mem_singleton.1 he]; rfl
        · refine h.untouched.trans ?_
          refine ⟨?_, ?_, ?_, ?_, ?_, ?_, ?_, ?_, ?_, ?_, ?_, ?_, ?_⟩ <;> simp [setTransmit]
        · simp [setTransmit, h.attempt]
        · simp [setTransmit, isValue]
        · simpa [setTransmit] using h.poll
        · simpa [setTransmit] using h.rxLen
        · simp [setTransmit, h.written]
        · intro hg; apply setTransmit_gpio_wf; simpa using h.gpioWf hg
        · have hp := setTransmit_pins (environment (setSeq .decoded (attemptOnce s).2)) true
          simpa [h.untouched.cfg, setTransmit] using hp
        · intro p h1 h2
          rw [setTransmit_others _ true (by simpa [h.untouched.cfg] using h1) (by simpa [h.untouched.cfg] using h2)]
          simpa using h.others p h1 h2
        · simp [setTransmit, hlog]
        · simp [setTransmit]
        · simp [setTransmit, seqEdge]
        · intro q hqe; exact seqPath_from hqe (by simp [SeqPath, seqEdge])
      · -- a checksum error: the last attempt, or another one
        by_cases hl : (attemptOnce s).2.attempt = BitVec.ofNat 2 Config.maxAttempts
        · have hr : transactLoop (k + 1) s = (.checksumError, setSeq .exhausted (attemptOnce s).2) := by
            simp [transactLoop, ho, hl]
          have hk1 : k = 0 := by
            have : s.attempt = BitVec.ofNat 2 Config.maxAttempts := h.attempt ▸ hl
            rw [this, hmax] at hs; simp at hs; omega
          rw [hr]
          refine ⟨[a], new, ?_, by simp [isValue, h.tokens], by simpa using h.legal, by simp, ⟨a, rfl, ho ▸ h.explained, leavesResponse_congr h.left (by simp) (by simp) (by simp)⟩,
            h.disciplined, ?_, by simp, by simp, ?_, ?_, by simp [hk1],
            by simp, by simpa using h.poll, by simpa using h.rxLen, by simpa using h.written, by simpa using h.gpioWf,
            by simpa [h.txMode] using h.pins, by simpa [otherPinsKept] using h.others,
            [.transmitting, .lineSwitchDelay, .awaitingResponse, .validating, .exhausted], ?_, by simp,
            by simp [seqEdge], ?_⟩
          · simp [h.trace]
          · refine h.untouched.trans ?_
            refine ⟨?_, ?_, ?_, ?_, ?_, ?_, ?_, ?_, ?_, ?_, ?_, ?_, ?_⟩ <;> simp
          · simp [h.attempt]
          · simp [h.txMode, isValue]
          · simp [hlog]
          · intro q hqe; exact seqPath_from hqe (by simp [SeqPath, seqEdge])
        · have hne : s.attempt ≠ BitVec.ofNat 2 Config.maxAttempts := h.attempt ▸ hl
          have hlt : s.attempt.toNat ≠ 3 := fun hc => hne (BitVec.eq_of_toNat_eq (by simp [hc, hmax]))
          have hk0 : k ≠ 0 := by
            intro h0; rw [hmax, h0] at hs; omega
          set u := setAttempt ((attemptOnce s).2.attempt + 1) (setSeq .retry (attemptOnce s).2) with hu
          have hr : transactLoop (k + 1) s = transactLoop k u := by simp [transactLoop, ho, hl, hu]
          have hua : u.attempt.toNat = s.attempt.toNat + 1 := by
            have := s.attempt.isLt
            simp [hu, h.attempt]; omega
          have hunt : Untouched s u := h.untouched.trans (Untouched.of_attempt _ _ _)
          obtain ⟨atts, more, hm⟩ := ih u hk0 (by omega)
          obtain ⟨path, hp1, hp2, hp3, hp4⟩ := hm.path
          rw [hr]
          refine ⟨a :: atts, new ++ more, ?_, ?_, ?_, ?_, ?_, ?_, hunt.trans hm.untouched, by simp, ?_, ?_, hm.txMode, ?_,
            hm.kind, hm.poll, hm.rxLen, ?_, fun hg => hm.gpioWf (by simpa [hu] using h.gpioWf hg),
            by simpa only [hunt.cfg] using hm.pins, ?_, [.transmitting, .lineSwitchDelay, .awaitingResponse, .validating, .retry] ++ path, ?_, ?_, hp3, ?_⟩
          · rw [hm.trace]; simp [hu, h.trace]
          · rw [tokens_append, hm.tokens, h.tokens, hunt.guardUs, hunt.txFrame]; simp
          · intro b hb
            rcases List.mem_cons.1 hb with rfl | hb
            · exact h.legal
            · exact hm.legal b hb
          · intro b hb
            have hne : atts ≠ [] := List.length_pos_iff.1 hm.nonempty
            rw [List.dropLast_cons_of_ne_nil hne] at hb
            rcases List.mem_cons.1 hb with rfl | hb
            · exact ho ▸ h.explained
            · exact hm.earlier b hb
          · obtain ⟨b, hb, hx⟩ := hm.last
            exact ⟨b, by simp [List.getLast?_cons, hb], hx⟩
          · intro e he
            rcases List.mem_append.1 he with he | he
            · exact h.disciplined e he
            · exact hm.disciplined e he
          · simpa using hm.bounded
          · have := hm.attempt; simp only [List.length_cons]; omega
          · intro hc; simpa using hm.exhausted hc
          · rw [hm.written, hunt.txFrame]; simp [hu, h.written, List.replicate_succ]
          · intro p h1 h2
            rw [hm.others p (by rwa [hunt.cfg]) (by rwa [hunt.cfg])]
            simpa [hu] using h.others p h1 h2
          · rw [hp1]; simp [hu, hlog]
          · simp only [List.getLast?_append, hp2, Option.some_or]
          · intro q hqe
            have := hp4 .retry (by simp [seqEdge])
            exact seqPath_from hqe (.cons_cons rfl (.cons_cons rfl (.cons_cons rfl (.cons_cons rfl this))))
      · -- an unhandled function
        have hr : transactLoop (k + 1) s = (.undecodableFunction, (attemptOnce s).2) := by simp [transactLoop, ho]
        rw [hr]
        refine ⟨[a], new, h.trace, by simp [isValue, h.tokens], by simpa using h.legal, by simp, ⟨a, rfl, ho ▸ h.explained, h.left⟩,
          h.disciplined, h.untouched, by simp, by simp, ?_, ?_,
          by simp, by simp, h.poll, h.rxLen, by simpa using h.written, h.gpioWf, by simpa only [h.txMode] using h.pins, h.others,
          _, hlog, by simp [hq], by simp [hq, seqEdge], ?_⟩
        · simp [h.attempt]
        · simp [h.txMode, isValue]
        · intro q hqe; exact seqPath_from hqe (by simp [SeqPath, seqEdge])

/-- TRANSACT does one of these, from attempt 1 (rule R217). -/
theorem runTransact_spec (s : State) :
    ∃ atts new, Transacted Config.maxAttempts (setAttempt 1 s) (runTransact s).1 (runTransact s).2 atts new :=
  transactLoop_spec _ _ (by decide) rfl

end Sys2Proof.Machine
end

