-- ==== Sys2Proof/Laws/Codec.lean ====
section
/-! SUPPORT. What DECODE_RESPONSE run alone and the wire frames leave alone, field by field, and which codes decode. -/

namespace Sys2Proof.Machine

open Sys2Proof

/-- DECODE_RESPONSE run alone writes OUTCOME and the model's result besides (10_state.md rule R34). -/
theorem decodeAlone_spec (bytes : List Byte) (s : State) :
    decodeAlone bytes s = { s with
      crcAcc := (decodeWrites bytes s).crcAcc
      outTag := tagOf (decodeOutcome bytes s)
      outValue := outcomeValue (decodeWrites bytes s).fresh (decodeOutcome bytes s)
      fresh := (decodeWrites bytes s).fresh + 1
      result := .outcome (decodeOutcome bytes s) } := by
  unfold decodeAlone decodeWrites
  split <;> rfl

/-- A byte of the front of a sequence is the byte of the whole (43_frame_codec.md rule R190). -/
theorem byteAt_append_left (base : Nat) (m t : List Byte) (p : Nat) (h : p < m.length) :
    byteAt base (m ++ t) p = byteAt base m p := by
  simp only [byteAt, List.getElem?_append_left h]

/-- What the decoder accepts has an encoding: `step` runs wire frames and host commands only. -/
theorem encode_isSome_of_decode {c : Code} {i : Instr} (h : decode c = .ok i) : (encode i).isSome = true := by
  unfold decode decodeCommand decodeSent decodeReceived at h
  split at h
  · split at h <;> cases h <;> rfl
  · split at h
    · split at h
      · split at h
        · cases h; rfl
        · split at h
          · cases h; rfl
          · cases h
      · cases h
    · split at h
      · cases h; rfl
      · cases h
    · cases h
  · split at h
    · split at h
      · split at h
        · cases h; rfl
        · cases h
      · split at h
        · split at h
          · cases h; rfl
          · split at h
            · cases h; rfl
            · cases h
        · cases h
    · cases h

/-- The invariant reads these fields alone. -/
theorem MachineInv.congr {s t : State} (h : MachineInv s) (hbusy : t.busy = s.busy) (hseq : t.seq = s.seq)
    (hpoll : t.poll = s.poll) (htx : t.txLen = s.txLen) (hrx : t.rxLen ≤ Config.readMax) (hgpio : t.gpio = s.gpio)
    (hinit : t.initialised = s.initialised) (hcfg : t.cfg = s.cfg) (hset : t.chan.settings = s.chan.settings)
    (hmode : t.txMode = s.txMode) : MachineInv t where
  notBusy := by rw [hbusy]; exact h.notBusy
  seqIdle := by rw [hseq]; exact h.seqIdle
  pollBound := by rw [hpoll]; exact h.pollBound
  txLenLegal := by rw [htx]; exact h.txLenLegal
  rxLenBound := hrx
  gpioWf := by rw [hgpio]; exact h.gpioWf
  whenReady := by rw [hinit, hcfg, hset, hmode, hgpio]; exact h.whenReady
  beforeReady := by rw [hinit, hset, hmode]; exact h.beforeReady

end Sys2Proof.Machine
end

