-- ==== Sys2Proof/Laws/Crc.lean ====
section
/-! SUPPORT. The checksum table and one step of CHECKSUM (40_checksum.md rules R131 to R133). -/

namespace Sys2Proof.Machine

open Sys2Proof

/-! ### The bytes of a 16-bit word -/

@[simp] theorem lo8_xor (a b : Half) : lo8 (a ^^^ b) = lo8 a ^^^ lo8 b := BitVec.extractLsb'_xor

@[simp] theorem hi8_xor (a b : Half) : hi8 (a ^^^ b) = hi8 a ^^^ hi8 b := BitVec.extractLsb'_xor

@[simp] theorem lo8_zeroExtend (b : Byte) : lo8 (b.zeroExtend 16) = b := by
  apply BitVec.eq_of_getLsbD_eq
  intro i hi
  simp only [lo8, BitVec.getLsbD_extractLsb', BitVec.getLsbD_setWidth]
  simp [hi, show i < 16 by omega]

@[simp] theorem hi8_zeroExtend (b : Byte) : hi8 (b.zeroExtend 16) = 0 := by
  apply BitVec.eq_of_getLsbD_eq
  intro i hi
  simp [hi8]

@[simp] theorem hi8_shift (a : Half) : hi8 (a >>> 8) = 0 := by
  apply BitVec.eq_of_getLsbD_eq
  intro i hi
  simp [hi8, BitVec.getLsbD_of_ge a (8 + (8 + i)) (by omega)]

/-- A word is its high byte above its low byte. -/
theorem half_of_bytes (a : Half) : a = (hi8 a ++ (0 : Byte)) ^^^ (lo8 a).zeroExtend 16 := by
  apply BitVec.eq_of_getLsbD_eq
  intro i hi
  simp only [BitVec.getLsbD_xor, BitVec.getLsbD_append, hi8, lo8, BitVec.getLsbD_extractLsb', BitVec.getLsbD_setWidth]
  by_cases h : i < 8
  · simp [h, show i < 16 by omega]
  · simp [h, show 8 + (i - 8) = i by omega, show i - 8 < 8 by omega]

/-- Shifting right by 8 leaves the high byte. -/
theorem shift_eight (a : Half) : a >>> 8 = (hi8 a).zeroExtend 16 := by
  apply BitVec.eq_of_getLsbD_eq
  intro i hi
  simp only [BitVec.getLsbD_ushiftRight, BitVec.getLsbD_setWidth, hi8, BitVec.getLsbD_extractLsb']
  by_cases h : i < 8
  · simp [h, hi]
  · simp [h, BitVec.getLsbD_of_ge a (8 + i) (by omega)]

/-- `CRC_TABLE` has 256 entries. -/
theorem crcTable_length : crcTable.length = Config.crcTableSize := by simp [crcTable]

/-- The table look-up as a function of the index. -/
def crcEntry (i : Byte) : Half := (crcTable[i.toNat]?).getD 0

theorem crcStep_eq (acc : Half) (b : Byte) :
    crcStep acc b = (acc >>> 8) ^^^ crcEntry (lo8 (acc ^^^ b.zeroExtend 16)) := rfl

/-- Every entry is the one rule R132 generates. -/
theorem crcEntry_generated (i : Byte) : crcEntry i = crcEightBits (i.zeroExtend 16) := by
  have h : i.toNat < Config.crcTableSize := i.isLt
  simp only [crcEntry, crcTable, List.getElem?_map, List.getElem?_range h, Option.map_some, Option.getD_some, crcGenerate]
  exact congrArg crcEightBits (BitVec.eq_of_toNat_eq (by simp))

/-- Entry 0 is 0 (rule R135). -/
theorem crcEntry_zero : crcEntry 0 = 0 := by decide

/-- Only entry 0 has a high byte of 0. -/
theorem crcEntry_high_byte_zero : ∀ i : Byte, hi8 (crcEntry i) = 0 → i = 0 := by decide +kernel

/-- CHECKSUM of a longer sequence goes on from CHECKSUM of its front. -/
theorem checksum_append (l m : List Byte) : checksum (l ++ m) = m.foldl crcStep (checksum l) := by
  simp [checksum]

/-- CHECKSUM of nothing is the seed (rule R135). -/
@[simp] theorem checksum_nil : checksum [] = Config.crcSeed := rfl

end Sys2Proof.Machine
end

