-- ==== Sys2Proof/Laws/Encoding.lean ====
section
/-! SUPPORT. The bits of the encodings, field by field (30_encoding.md rules R96 to R109), and the split of a received
frame at its checksum. -/

namespace Sys2Proof

open Machine

/-- The two bytes of a 16-bit field, put together again (rule R96). -/
@[simp] theorem half_split (a : Half) : half (hi8 a) (lo8 a) = a := by
  simp only [half, hi8, lo8]
  apply BitVec.eq_of_getLsbD_eq
  intro i hi
  simp only [BitVec.getLsbD_append, BitVec.getLsbD_extractLsb']
  by_cases h : i < 8
  · simp [h]
  · simp [h, show 8 + (i - 8) = i by omega, show i - 8 < 8 by omega]

/-- The last two bytes of a received frame are its checksum (rule R98). -/
@[simp] theorem splitChecksum_append (d : List Byte) (lo hi : Byte) :
    splitChecksum (d ++ [lo, hi]) = some (d, lo, hi) := by
  simp [splitChecksum]

/-- The bits of a command word: `op` below, `arg` above (rule R103). -/
theorem cmdWord_bit (a : BitVec 64) (o : BitVec 3) (i : Nat) :
    (cmdWord a o).getLsbD i = if i < 3 then o.getLsbD i else a.getLsbD (i - 3) :=
  BitVec.getLsbD_append

/-- `op` of a command word. -/
@[simp] theorem cmdOp_cmdWord (a : BitVec 64) (o : BitVec 3) : cmdOp (cmdWord a o) = o := by
  apply BitVec.eq_of_getLsbD_eq
  intro i hi
  simp only [cmdOp, BitVec.getLsbD_extractLsb', cmdWord_bit]
  simp [hi]

/-- `arg` of a command word. -/
@[simp] theorem cmdArg_cmdWord (a : BitVec 64) (o : BitVec 3) : cmdArg (cmdWord a o) = a := by
  apply BitVec.eq_of_getLsbD_eq
  intro i hi
  simp only [cmdArg, BitVec.getLsbD_extractLsb', cmdWord_bit]
  simp [hi]

/-- The bits of the argument of INIT (rule R109). -/
theorem initArg_bit (port : Byte) (baud : Word) (pinDe pinRe pinTx : Byte) (i : Nat) :
    (initArg port baud pinDe pinRe pinTx).getLsbD i =
      if i < 32 then baud.getLsbD i
      else if i < 40 then port.getLsbD (i - 32)
      else if i < 48 then pinDe.getLsbD (i - 40)
      else if i < 56 then pinRe.getLsbD (i - 48)
      else pinTx.getLsbD (i - 56) := by
  have h : (initArg port baud pinDe pinRe pinTx).getLsbD i =
      if i < 32 then baud.getLsbD i
      else (pinTx ++ pinRe ++ pinDe ++ port : BitVec (8 + 8 + 8 + 8)).getLsbD (i - 32) := BitVec.getLsbD_append
  have h2 : ∀ j, (pinTx ++ pinRe ++ pinDe ++ port : BitVec (8 + 8 + 8 + 8)).getLsbD j =
      if j < 8 then port.getLsbD j else (pinTx ++ pinRe ++ pinDe : BitVec (8 + 8 + 8)).getLsbD (j - 8) :=
    fun _ => BitVec.getLsbD_append
  have h3 : ∀ j, (pinTx ++ pinRe ++ pinDe : BitVec (8 + 8 + 8)).getLsbD j =
      if j < 8 then pinDe.getLsbD j else (pinTx ++ pinRe : BitVec (8 + 8)).getLsbD (j - 8) :=
    fun _ => BitVec.getLsbD_append
  have h4 : ∀ j, (pinTx ++ pinRe : BitVec (8 + 8)).getLsbD j =
      if j < 8 then pinRe.getLsbD j else pinTx.getLsbD (j - 8) := fun _ => BitVec.getLsbD_append
  rw [h, h2, h3, h4]
  split_ifs <;> first | rfl | omega

/-- The bits of the side port of INIT (rule R109). -/
theorem initExt_bit (rxCap : Word) (pinRx : Byte) (i : Nat) :
    (initExt rxCap pinRx).getLsbD i = if i < 8 then pinRx.getLsbD i else rxCap.getLsbD (i - 8) :=
  BitVec.getLsbD_append

/-- The bits of the argument of SET_BAUDRATE (rule R107). -/
theorem baudArg_bit (baud : Word) (i : Nat) :
    (baudArg baud).getLsbD i = if i < 32 then baud.getLsbD i else false := by
  have h : (baudArg baud).getLsbD i = if i < 32 then baud.getLsbD i else (0 : Word).getLsbD (i - 32) :=
    BitVec.getLsbD_append
  rw [h]; simp

/-- The bits of the argument of REQUEST (rule R105). -/
theorem requestArg_bit (unitId function : Byte) (addr : Half) (i : Nat) :
    (requestArg unitId function addr).getLsbD i =
      if i < 8 then unitId.getLsbD i
      else if i < 16 then function.getLsbD (i - 8)
      else addr.getLsbD (i - 16) := by
  have h : (requestArg unitId function addr).getLsbD i =
      if i < 8 then unitId.getLsbD i else ((0 : Word) ++ addr ++ function : BitVec (32 + 16 + 8)).getLsbD (i - 8) :=
    BitVec.getLsbD_append
  have h2 : ∀ j, ((0 : Word) ++ addr ++ function : BitVec (32 + 16 + 8)).getLsbD j =
      if j < 8 then function.getLsbD j else ((0 : Word) ++ addr : BitVec (32 + 16)).getLsbD (j - 8) :=
    fun _ => BitVec.getLsbD_append
  have h3 : ∀ j, ((0 : Word) ++ addr : BitVec (32 + 16)).getLsbD j = addr.getLsbD j := by
    intro j
    have : ((0 : Word) ++ addr : BitVec (32 + 16)).getLsbD j =
        if j < 16 then addr.getLsbD j else (0 : Word).getLsbD (j - 16) := BitVec.getLsbD_append
    rw [this]
    split_ifs with hj
    · rfl
    · rw [BitVec.getLsbD_of_ge addr j (by omega)]; simp
  rw [h, h2, h3]
  split_ifs <;> first | rfl | omega

/-- The bits of the argument of SET (rule R106). -/
theorem setArg_bit (unitId : Byte) (addr value : Half) (i : Nat) :
    (setArg unitId addr value).getLsbD i =
      if i < 8 then unitId.getLsbD i
      else if i < 16 then false
      else if i < 32 then addr.getLsbD (i - 16)
      else value.getLsbD (i - 32) := by
  have h : (setArg unitId addr value).getLsbD i =
      if i < 8 then unitId.getLsbD i
      else ((0 : Half) ++ value ++ addr ++ (0 : Byte) : BitVec (16 + 16 + 16 + 8)).getLsbD (i - 8) :=
    BitVec.getLsbD_append
  have h2 : ∀ j, ((0 : Half) ++ value ++ addr ++ (0 : Byte) : BitVec (16 + 16 + 16 + 8)).getLsbD j =
      if j < 8 then (0 : Byte).getLsbD j else ((0 : Half) ++ value ++ addr : BitVec (16 + 16 + 16)).getLsbD (j - 8) :=
    fun _ => BitVec.getLsbD_append
  have h3 : ∀ j, ((0 : Half) ++ value ++ addr : BitVec (16 + 16 + 16)).getLsbD j =
      if j < 16 then addr.getLsbD j else ((0 : Half) ++ value : BitVec (16 + 16)).getLsbD (j - 16) :=
    fun _ => BitVec.getLsbD_append
  have h4 : ∀ j, ((0 : Half) ++ value : BitVec (16 + 16)).getLsbD j = value.getLsbD j := by
    intro j
    have : ((0 : Half) ++ value : BitVec (16 + 16)).getLsbD j =
        if j < 16 then value.getLsbD j else (0 : Half).getLsbD (j - 16) := BitVec.getLsbD_append
    rw [this]
    split_ifs with hj
    · rfl
    · rw [BitVec.getLsbD_of_ge value j (by omega)]; simp
  rw [h, h2, h3, h4]
  split_ifs <;> first | rfl | omega | simp

/-- A 16-bit field put together from two bytes has these as its bytes (rule R96). -/
@[simp] theorem hi8_half (a b : Byte) : hi8 (half a b) = a := by
  apply BitVec.eq_of_getLsbD_eq; intro i hi
  simp only [hi8, half, BitVec.getLsbD_extractLsb', BitVec.getLsbD_append]
  simp [hi]

@[simp] theorem lo8_half (a b : Byte) : lo8 (half a b) = b := by
  apply BitVec.eq_of_getLsbD_eq; intro i hi
  simp only [lo8, half, BitVec.getLsbD_extractLsb', BitVec.getLsbD_append]
  simp [hi]

/-- What the split gives is what stands there. -/
theorem splitChecksum_some {rest d : List Byte} {lo hi : Byte} (h : splitChecksum rest = some (d, lo, hi)) :
    rest = d ++ [lo, hi] := by
  unfold splitChecksum at h
  split at h
  · rename_i a b l hr
    cases h
    have := congrArg List.reverse hr
    simpa using this
  · cases h

/-- A received frame is the encoding of the instruction it decodes to: no byte of it is lost (rules R94, R95). -/
theorem encode_of_decode_received {bytes : List Byte} {i : Instr} (h : decode (.received bytes) = .ok i) :
    encode i = some (.received bytes) := by
  simp only [decode] at h
  unfold decodeReceived at h
  split at h
  · split at h
    · split at h
      · cases h; rename_i hf; simp_all [encode, writeResponseFrame]
      · cases h
    · split at h
      · rename_i hs
        rw [splitChecksum_some hs]
        split at h
        · rename_i hf; cases h; rw [hf]; rfl
        · split at h
          · rename_i hf; cases h; rw [hf]; rfl
          · cases h
      · cases h
  · cases h

end Sys2Proof
end

