-- ==== Sys2Proof/Laws/Exchange.lean ====
section
/-! SUPPORT. REQUEST and SET around TRANSACT (44_transaction_manager.md rules R221, R222, R225): what stands in the registers
when the exchange begins, and what a whole transaction can do. -/

namespace Sys2Proof.Machine

open Sys2Proof

/-- An outcome just written is held. -/
theorem holdsOutcome_setOutcome (o : ResponseOutcome) (s : State) : holdsOutcome (setOutcome o s) o := by
  refine ⟨rfl, ?_⟩
  rintro v rfl
  rfl

/-- The function codes of a read, as the spec writes them (30_encoding.md rule R99). -/
theorem isReadFunction_iff (f : Byte) : isReadFunction f = true ↔ f = 3 ∨ f = 4 := by
  simp [isReadFunction, Config.fcReadHolding, Config.fcReadInput]

/-- A supported function code is the code of the kind it selects. -/
theorem functionOf_readKind {f : Byte} (h : f = 3 ∨ f = 4) : functionOf (readKind f) = f := by
  rcases h with rfl | rfl <;> rfl

/-- What REQUEST prepares (rule R222). -/
theorem prepareRead_spec (unitId f : Byte) (addr : Half) (s : State) (h : f = 3 ∨ f = 4) :
    prepareRead unitId f addr s = { s with
      req := { s.req with unitId := unitId, kind := readKind f, addr := addr }
      txf := (loadTxf Config.readReqLen (withChecksum (readRequestBody unitId f addr)) s).txf
      txLen := Config.readReqLen
      crcAcc := checksum (readRequestBody unitId f addr)
      guardUs := guardTimeOf s.fresh s.cfg.baud
      fresh := s.fresh + 1 } := by
  simp only [prepareRead, buildRead, buildFrame, setReq_req, functionOf_readKind h]
  rfl

/-- What SET prepares (rule R225). -/
theorem prepareWrite_spec (unitId : Byte) (addr value : Half) (s : State) :
    prepareWrite unitId addr value s = { s with
      req := ⟨unitId, .writeSingle, addr, value⟩
      txf := (loadTxf Config.writeReqLen (withChecksum (writeRequestBody unitId addr value)) s).txf
      txLen := Config.writeReqLen
      crcAcc := checksum (writeRequestBody unitId addr value)
      guardUs := guardTimeOf s.fresh s.cfg.baud
      fresh := s.fresh + 1 } := rfl

/-- The frame REQUEST sends. -/
theorem txFrame_prepareRead (unitId f : Byte) (addr : Half) (s : State) (h : f = 3 ∨ f = 4) :
    txFrame (prepareRead unitId f addr s) = withChecksum (readRequestBody unitId f addr) := by
  rw [prepareRead_spec _ _ _ _ h]
  exact take_ofFn_load (n := Config.writeReqLen) (withChecksum (readRequestBody unitId f addr)) (fun i => s.txf[i]) (by simp [Config.writeReqLen])

/-- The frame SET sends. -/
theorem txFrame_prepareWrite (unitId : Byte) (addr value : Half) (s : State) :
    txFrame (prepareWrite unitId addr value s) = withChecksum (writeRequestBody unitId addr value) := by
  rw [prepareWrite_spec]
  exact take_ofFn_load (n := Config.writeReqLen) (withChecksum (writeRequestBody unitId addr value)) (fun i => s.txf[i]) (by simp [Config.writeReqLen])

/-- A transaction is the exchange, SEQ back to Idle, and finish with the environment's slot before it (rules R221, R222,
R225): what it leaves of the state the exchange ended in. -/
theorem runTransaction_eq (s : State) :
    runTransaction s = { (runTransact s).2 with
      seq := .idle
      seqLog := (runTransact s).2.seqLog ++ [.idle]
      outTag := tagOf (runTransact s).1
      outValue := outcomeValue ((runTransact s).2.fresh + 1) (runTransact s).1
      chan := (environment (runTransact s).2).chan
      script := (runTransact s).2.script.tail
      fresh := (runTransact s).2.fresh + 2
      trace := (runTransact s).2.trace ++ [⟨.finished (runTransact s).1, .idle, (runTransact s).2.txMode,
        (runTransact s).2.attempt⟩]
      busy := false
      rspValid := true } := by
  unfold runTransaction
  generalize runTransact s = r
  rfl

/-! ### The wire frames (30_encoding.md rules R92 to R95, log entry 6) -/

/-- What a request frame does (30_encoding.md rules R91 to R93): with its own checksum what the command does whose frame it
is, with another it is refused. -/
theorem exec_sent {i : Instr} {frame : List Byte} (h : encode i = some (.sent frame)) :
    (wellFormed i = true →
      (∃ unitId f addr, (f = 3 ∨ f = 4) ∧ frame = withChecksum (readRequestBody unitId f addr) ∧
        ∀ s, exec i s = exec (.request unitId f addr) s) ∨
      (∃ unitId addr value, frame = withChecksum (writeRequestBody unitId addr value) ∧
        ∀ s, exec i s = exec (.set unitId addr value) s)) ∧
    (wellFormed i = false → ∀ s, exec i s = .refused .notABuiltFrame) := by
  cases i <;> simp only [encode, Option.some.injEq, Code.sent.injEq, reduceCtorEq] at h <;> subst h
  · refine ⟨fun hw => .inl ⟨_, _, _, .inl rfl, eq_of_beq hw, fun s => if_pos (eq_of_beq hw)⟩, fun hw s => if_neg ?_⟩
    exact fun hc => by simp [wellFormed, hc] at hw
  · refine ⟨fun hw => .inl ⟨_, _, _, .inr rfl, eq_of_beq hw, fun s => if_pos (eq_of_beq hw)⟩, fun hw s => if_neg ?_⟩
    exact fun hc => by simp [wellFormed, hc] at hw
  · refine ⟨fun hw => .inr ⟨_, _, _, eq_of_beq hw, fun s => if_pos (eq_of_beq hw)⟩, fun hw s => if_neg ?_⟩
    exact fun hc => by simp [wellFormed, hc] at hw

/-- Every exchange but TRANSACT's own is that of a REQUEST or a SET. -/
theorem exchanging_command {i : Instr} {s : State} {frame : List Byte} (h : Exchanging i s frame) (hi : i ≠ .transact) :
    ∃ j, j ≠ .transact ∧ (∀ u, exec i u = exec j u) ∧ s.busy = false ∧ s.initialised = true ∧
      ((∃ unitId f addr, (f = 3 ∨ f = 4) ∧ j = .request unitId f addr ∧
        frame = withChecksum (readRequestBody unitId f addr)) ∨
      (∃ unitId addr value, j = .set unitId addr value ∧ frame = withChecksum (writeRequestBody unitId addr value))) := by
  cases h with
  | request unitId f addr _ hb hini hf =>
    exact ⟨_, by simp, fun _ => rfl, hb, hini, .inl ⟨unitId, f, addr, hf, rfl, rfl⟩⟩
  | set unitId addr value _ hb hini => exact ⟨_, by simp, fun _ => rfl, hb, hini, .inr ⟨unitId, addr, value, rfl, rfl⟩⟩
  | transact => exact absurd rfl hi
  | rdreqHolding unitId addr lo hi _ hb hini hc =>
    exact ⟨.request unitId 3 addr, by simp, fun _ => if_pos (eq_of_beq hc), hb, hini, .inl ⟨_, _, _, .inl rfl, rfl, eq_of_beq hc⟩⟩
  | rdreqInput unitId addr lo hi _ hb hini hc =>
    exact ⟨.request unitId 4 addr, by simp, fun _ => if_pos (eq_of_beq hc), hb, hini, .inl ⟨_, _, _, .inr rfl, rfl, eq_of_beq hc⟩⟩
  | wrreq unitId addr value lo hi _ hb hini hc =>
    exact ⟨.set unitId addr value, by simp, fun _ => if_pos (eq_of_beq hc), hb, hini, .inr ⟨_, _, _, rfl, eq_of_beq hc⟩⟩

/-- A response frame run as an instruction is received (log entry 6). -/
theorem exec_received {i : Instr} {frame : List Byte} (h : encode i = some (.received frame)) (s : State) :
    exec i s = .next (receiveFrame frame s) := by
  cases i <;> simp only [encode, Option.some.injEq, Code.received.injEq, reduceCtorEq] at h <;> subst h <;> rfl

/-- A step that is presented bytes from the line receives them, a frame or not (20_memory.md rule R72). -/
theorem step_received {bytes : List Byte} {s : State} {rest : List Input}
    (h : s.inputs = .present (.received bytes) :: rest) : step s = .next (receiveFrame bytes (setInputs rest s)) := by
  simp only [step, fetch, h, fetchCode]
  cases hd : decode (.received bytes) with
  | error r => rfl
  | ok i => exact exec_received (encode_of_decode_received hd) _

/-- A response frame that no one awaits only arrives. -/
theorem receiveFrame_unawaited (l : List Byte) {s : State} (h : s.seq ≠ .awaitingResponse) :
    receiveFrame l s = deliver l s := if_neg h

/-- One that is awaited arrives, the environment acts, and the await and validate steps follow. -/
theorem receiveFrame_awaited (l : List Byte) {s : State} (h : s.seq = .awaitingResponse) :
    ∃ o t a new, Answered (environment (deliver l s)) o t a new ∧ receiveFrame l s = setResult (.outcome o) t := by
  obtain ⟨a, new, ha⟩ := awaitAndValidate_spec (environment (deliver l s))
  exact ⟨_, _, a, new, ha, if_pos h⟩

end Sys2Proof.Machine
end

