-- ==== Sys2Proof/Laws/PerInstr.lean ====
section
/-! SUPPORT. A statement about every instruction as syntax: the shape of its encoding (30_encoding.md rules R92 to R95, R98
and R104), one lemma per constructor. -/

namespace Sys2Proof.Laws.EncodedShape

open Sys2Proof Sys2Proof.Machine

/-- A command word has an op code of the repertoire, a frame sent has 8 or 11 bytes, a frame received at least the 5 of a
read response with no data. -/
def shape : Code → Bool
  | .command cmd _ => (cmdOp cmd).toNat ≤ 4
  | .sent bytes => bytes.length == Config.readReqLen || bytes.length == Config.writeReqLen
  | .received bytes => 5 ≤ bytes.length

/-- An instruction that has an encoding has one of that shape. -/
def Statement (i : Instr) : Prop := ∀ c, encode i = some c → shape c = true

theorem rdreqHolding (a : Byte) (b : Half) (c d : Byte) : Statement (.rdreqHolding a b c d) := by
  rintro _ ⟨⟩; rfl
theorem rdreqInput (a : Byte) (b : Half) (c d : Byte) : Statement (.rdreqInput a b c d) := by
  rintro _ ⟨⟩; rfl
theorem wrreq (a : Byte) (b c : Half) (d e : Byte) : Statement (.wrreq a b c d e) := by
  rintro _ ⟨⟩; rfl
theorem rdrspHolding (a n : Byte) (l : List Byte) (b c : Byte) : Statement (.rdrspHolding a n l b c) := by
  rintro _ ⟨⟩; simp [shape, readResponseFrame]
theorem rdrspInput (a n : Byte) (l : List Byte) (b c : Byte) : Statement (.rdrspInput a n l b c) := by
  rintro _ ⟨⟩; simp [shape, readResponseFrame]
theorem wrrsp (a : Byte) (b c : Half) (d e : Byte) : Statement (.wrrsp a b c d e) := by
  rintro _ ⟨⟩; rfl
theorem init (p : Byte) (b c : Word) (d e f g : Byte) : Statement (.init p b c d e f g) := by
  rintro _ ⟨⟩; simp [shape]
theorem setBaudrate (b : Word) : Statement (.setBaudrate b) := by
  rintro _ ⟨⟩; simp [shape]
theorem flush : Statement .flush := by
  rintro _ ⟨⟩; simp [shape]
theorem request (a b : Byte) (c : Half) : Statement (.request a b c) := by
  rintro _ ⟨⟩; simp [shape]
theorem set (a : Byte) (b c : Half) : Statement (.set a b c) := by
  rintro _ ⟨⟩; simp [shape]
theorem checksum (l : List Byte) : Statement (.checksum l) := by rintro _ ⟨⟩
theorem setTransmit (b : Bool) : Statement (.setTransmit b) := by rintro _ ⟨⟩
theorem tFlush : Statement .tFlush := by rintro _ ⟨⟩
theorem tAvailable : Statement .tAvailable := by rintro _ ⟨⟩
theorem tWrite (l : List Byte) : Statement (.tWrite l) := by rintro _ ⟨⟩
theorem tReadResponse : Statement .tReadResponse := by rintro _ ⟨⟩
theorem buildReadRequest (a b : Byte) (c : Half) : Statement (.buildReadRequest a b c) := by rintro _ ⟨⟩
theorem buildWriteRequest (a : Byte) (b c : Half) : Statement (.buildWriteRequest a b c) := by rintro _ ⟨⟩
theorem decodeResponse (l : List Byte) : Statement (.decodeResponse l) := by rintro _ ⟨⟩
theorem guardTime : Statement .guardTime := by rintro _ ⟨⟩
theorem transact : Statement .transact := by rintro _ ⟨⟩

end Sys2Proof.Laws.EncodedShape
end

