-- ==== Sys2Proof/Tests/Slice0.lean ====
section
/-! SUPPORT. The model's own tests: an ill-formed term for each check of WellFormed, words and frames of the spec for every
constructor that has an encoding, small runs of one operation each from 95_test_vectors.md, and for each obligation with
hypotheses a state and operands that meet them. -/

namespace Sys2Proof.Tests

open Sys2Proof Sys2Proof.Machine

/-! ## Helpers -/

/-- The next state, or the reset state where there is none. -/
def after (o : Host.Outcome State Fault Refusal) : State :=
  match o with
  | .next s => s
  | .fault _ => State.reset
  | .refused _ => State.reset

/-- The name an operation is refused under, if it is. -/
def refusal (o : Host.Outcome State Fault Refusal) : Option Refusal :=
  match o with
  | .next _ => none
  | .fault _ => none
  | .refused r => some r

/-- The state after `INIT 2, 9600, 256, 4, 5, 17, 16` (95_test_vectors.md part 2.8), queues empty, nothing to come. -/
def ready : State :=
  { State.reset with
    cfg := ⟨2, 9600, 256, 4, 5, 17, 16⟩
    initialised := true
    rspValid := true
    chan := ⟨some ⟨2, 9600, 8, false, 1, 17, 16, 256⟩, [], [], []⟩
    gpio := [(4, false), (5, false)] }

/-- The same with an environment that does nothing at the next `n` points. -/
def quietFor (n : Nat) : State := { ready with script := List.replicate n Slot.quiet }

/-- The block in a transaction, about to read the response, with nothing received yet. -/
def awaiting : State := { quietFor 3 with busy := true, seq := .awaitingResponse }

/-- The response to a read of the value 100 (95_test_vectors.md S3). -/
def golden : List Byte := [0x01, 0x03, 0x02, 0x00, 0x64, 0xB9, 0xAF]

/-- Two corruptions of it (S5, P2). -/
def corrupt1 : List Byte := [0x01, 0x03, 0x02, 0x00, 0x65, 0xB9, 0xAF]
def corrupt2 : List Byte := [0x01, 0x03, 0x02, 0x00, 0x64, 0xB9, 0xAE]

/-- The environment of P2: two corrupt responses and a valid one. -/
def thirdTime : State :=
  { ready with script := answerSlots corrupt1 ++ answerSlots corrupt2 ++ answerSlots golden ++ [Slot.quiet, Slot.quiet] }

/-! ## Well-formed and ill-formed terms -/

/-- Rules R92, R180: the checksum bytes of a read request are its own. -/
theorem test_wf_rdreqHolding : wellFormed (.rdreqHolding 1 10 0xA4 0x08) = true ∧
    wellFormed (.rdreqHolding 1 10 0x08 0xA4) = false := by decide
theorem test_wf_rdreqInput : wellFormed (.rdreqInput 1 10 0x11 0xC8) = true ∧
    wellFormed (.rdreqInput 1 10 0xA4 0x08) = false := by decide
/-- Rules R93, R180. -/
theorem test_wf_wrreq : wellFormed (.wrreq 1 5 42 0x27 0xDA) = true ∧
    wellFormed (.wrreq 1 5 43 0x27 0xDA) = false := by decide
/-- Rule R94: as many data bytes as declared. -/
theorem test_wf_rdrspHolding : wellFormed (.rdrspHolding 1 2 [0, 100] 0xB9 0xAF) = true ∧
    wellFormed (.rdrspHolding 1 3 [0, 100] 0xB9 0xAF) = false := by decide
theorem test_wf_rdrspInput : wellFormed (.rdrspInput 1 2 [1, 0x2C] 0xB9 0x7D) = true ∧
    wellFormed (.rdrspInput 1 2 [1] 0xB9 0x7D) = false := by decide
/-- Rules R252, R255: the least legal baud rate and capacity, and one below each. -/
theorem test_wf_init : wellFormed (.init 2 4800 129 4 5 17 16) = true ∧
    wellFormed (.init 2 4799 129 4 5 17 16) = false ∧ wellFormed (.init 2 4800 128 4 5 17 16) = false := by
  decide
/-- Rule R257. -/
theorem test_wf_setBaudrate : wellFormed (.setBaudrate 4800) = true ∧ wellFormed (.setBaudrate 4799) = false := by
  decide
/-- Rule R182. -/
theorem test_wf_buildReadRequest : wellFormed (.buildReadRequest 1 3 10) = true ∧
    wellFormed (.buildReadRequest 1 4 10) = true ∧ wellFormed (.buildReadRequest 1 16 10) = false := by decide

/-! ## Decoding: words and frames the spec writes out -/

/-- 95_test_vectors.md part 2.9: every printed command word. -/
theorem test_decode_request : decode (.command 0x0000000000050180B 0) = .ok (.request 1 3 10) ∧
    decode (.command 0x0000000000050200B 0) = .ok (.request 1 4 10) ∧
    decode (.command 0x0000000000028180B 0) = .ok (.request 1 3 5) := by decide
theorem test_decode_set : decode (.command 0x0000001500028000C 0) = .ok (.set 1 5 42) ∧
    decode (.command 0x000055E6891A00014 0) = .ok (.set 2 0x1234 0xABCD) := by decide
theorem test_decode_setBaudrate : decode (.command 0x000000000000E1001 0) = .ok (.setBaudrate 115200) := by decide
theorem test_decode_flush : decode (.command 0x00000000000000002 0) = .ok .flush := by decide
theorem test_decode_init : decode (.command 0x08828201000012C00 0x0000010010) = .ok (.init 2 9600 256 4 5 17 16) := by
  decide
/-- Rule R116. -/
theorem test_pseudo_operations : encode (readInput 1 10) = some (.command 0x0000000000050200B 0) ∧
    encode (readHolding 1 5) = some (.command 0x0000000000028180B 0) ∧
    encode (writeSingle 1 5 42) = some (.command 0x0000001500028000C 0) := by decide
/-- Rule R110: op codes 5 to 7. -/
theorem test_decode_reserved : decode (.command 5 0) = .error .reservedOpcode ∧
    decode (.command 7 0) = .error .reservedOpcode := by decide
/-- Part 2.4: request frames. -/
theorem test_decode_rdreq :
    decode (.sent [0x11, 0x03, 0x00, 0x6B, 0x00, 0x01, 0xF7, 0x46]) = .ok (.rdreqHolding 17 107 0xF7 0x46) ∧
    decode (.sent [0x11, 0x04, 0x00, 0x6B, 0x00, 0x01, 0x42, 0x86]) = .ok (.rdreqInput 17 107 0x42 0x86) := by decide
theorem test_decode_wrreq :
    decode (.sent [0x01, 0x10, 0x00, 0x05, 0x00, 0x01, 0x02, 0x00, 0x2A, 0x27, 0xDA]) = .ok (.wrreq 1 5 42 0x27 0xDA) := by
  decide
/-- Rule R92: another quantity is no request of this block. -/
theorem test_decode_not_a_request :
    decode (.sent [0x01, 0x03, 0x00, 0x0A, 0x00, 0x02, 0xA4, 0x08]) = .error .notARequestFrame := by decide
/-- Part 2.5: response frames. -/
theorem test_decode_rdrsp :
    decode (.received golden) = .ok (.rdrspHolding 1 2 [0x00, 0x64] 0xB9 0xAF) ∧
    decode (.received [0x01, 0x04, 0x02, 0x00, 0x2A, 0x38, 0xEF]) = .ok (.rdrspInput 1 2 [0x00, 0x2A] 0x38 0xEF) := by
  decide
theorem test_decode_wrrsp :
    decode (.received [0x02, 0x10, 0x12, 0x34, 0x00, 0x01, 0x45, 0x4C]) = .ok (.wrrsp 2 0x1234 1 0x45 0x4C) := by decide
/-- Rule R104: the table's match of each command is its op code, and a frame's bytes count from bit 0. -/
theorem test_table_words : decodeTableWord 67 3 = some (.request 0 0 0) ∧ decodeTableWord 67 2 = some .flush ∧
    decodeTableWord 64 0x08A401000A000301 = some (.rdreqHolding 1 10 0xA4 0x08) ∧
    decodeTableWord 67 6 = none := by decide

/-! ## The Checksum Engine (95_test_vectors.md part 2.1) -/

theorem test_checksum_check_value :
    checksum [0x31, 0x32, 0x33, 0x34, 0x35, 0x36, 0x37, 0x38, 0x39] = 0x4B37 := by decide
theorem test_checksum_writes_crcAcc :
    (after (exec (.checksum [0x01, 0x03, 0x00, 0x00, 0x00, 0x01]) ready)).crcAcc = 0x0A84 := by decide
theorem test_crcValid : crcValid golden = true ∧ crcValid (golden ++ [0]) = true ∧ crcValid [0xFF, 0xFF] = true ∧
    crcValid [0x01, 0x03, 0x02, 0x00, 0x64, 0xAF, 0xB9] = false ∧ crcValid corrupt1 = false := by decide

/-! ## The Line Direction Controller (part 2.2) -/

theorem test_setTransmit_raises_both : (after (exec (.setTransmit true) ready)).gpio = [(4, true), (5, true)] ∧
    deOutput (after (exec (.setTransmit true) ready)) = true := by decide
theorem test_setTransmit_one_pin :
    (after (exec (.setTransmit true) { ready with cfg := ⟨2, 9600, 256, 9, 9, 17, 16⟩ })).gpio =
      [(4, false), (5, false), (9, true)] := by decide

/-! ## The Serial Transport (part 2.3) -/

theorem test_tFlush : (after (exec .tFlush (setRxq [0xAA, 0xBB, 0xCC] ready))).chan.rxq = [] := by decide
theorem test_tAvailable : (after (exec .tAvailable (setRxq [0xAA, 0xBB, 0xCC] ready))).result = .count 3 := by
  decide
theorem test_tWrite : (after (exec (.tWrite [1, 2, 3]) (setRxq [0xAA] (quietFor 2)))).chan.rxq = [] ∧
    (after (exec (.tWrite [1, 2, 3]) (setRxq [0xAA] (quietFor 2)))).chan.txPend = [1, 2, 3] := by decide
/-- Threshold: 6 bytes are read, 5 are not. -/
theorem test_tReadResponse_six :
    (after (exec .tReadResponse (setRxq [1, 2, 3, 4, 5, 6] (quietFor 2)))).rxLen = 6 := by decide
theorem test_tReadResponse_five :
    (after (exec .tReadResponse (setRxq [1, 2, 3, 4, 5] (quietFor 10)))).result = .gotBytes false ∧
    (after (exec .tReadResponse (setRxq [1, 2, 3, 4, 5] (quietFor 10)))).poll = 10 := by decide

/-! ## The Frame Codec (parts 2.4, 2.5) -/

theorem test_buildReadRequest : txFrame (after (exec (.buildReadRequest 247 3 65535) ready)) =
    [0xF7, 0x03, 0xFF, 0xFF, 0x00, 0x01, 0x90, 0xB8] := by decide
theorem test_buildReadRequest_refuses : refusal (exec (.buildReadRequest 1 16 10) ready) = some .functionNotARead := by
  decide
theorem test_buildWriteRequest : txFrame (after (exec (.buildWriteRequest 2 0x1234 0xABCD) ready)) =
    [0x02, 0x10, 0x12, 0x34, 0x00, 0x01, 0x02, 0xAB, 0xCD, 0x3A, 0x70] := by decide
/-- A negative value of four bytes, and the checksum tested before the function. -/
theorem test_decodeResponse :
    (after (exec (.decodeResponse [0x01, 0x03, 0x04, 0xFF, 0xFF, 0xFF, 0x9C, 0xBB, 0x8E]) ready)).outValue = 0xFFFFFF9C ∧
    (after (exec (.decodeResponse [0x01, 0x83, 0x02, 0xC0, 0xF0]) ready)).outTag = .checksumError := by decide
theorem test_decodeResponse_functions :
    (after (exec (.decodeResponse [0x01, 0x06, 0x00, 0x05, 0x00, 0x01, 0x58, 0x0B]) ready)).outTag =
      .undecodableFunction ∧
    (after (exec (.decodeResponse [0x01, 0x10, 0x00, 0x05, 0x00, 0x01, 0x11, 0xC8]) ready)).outTag = .value := by
  decide
/-- An 11-byte payload keeps its last four bytes. -/
theorem test_readPayload_long : readPayload 0
    [0x01, 0x03, 0x0B, 1, 2, 3, 4, 5, 6, 7, 8, 9, 10, 11, 0x8E, 0x4E] = 134810123 := by decide

/-! ## The wire frames -/

/-- A silent slave (P3): the frame stands in TXF and went out once. -/
theorem test_rdreqHolding : txFrame (after (exec (.rdreqHolding 1 10 0xA4 0x08) (quietFor 17))) =
    [0x01, 0x03, 0x00, 0x0A, 0x00, 0x01, 0xA4, 0x08] ∧
    framesSent (after (exec (.rdreqHolding 1 10 0xA4 0x08) (quietFor 17))).trace = 1 := by decide
theorem test_rdreqInput : (after (exec (.rdreqInput 1 10 0x11 0xC8) (quietFor 17))).chan.txPend =
    [0x01, 0x04, 0x00, 0x0A, 0x00, 0x01, 0x11, 0xC8] := by decide
theorem test_wrreq : (after (exec (.wrreq 1 5 42 0x27 0xDA) (quietFor 17))).txLen = 11 ∧
    refusal (exec (.wrreq 1 5 43 0x27 0xDA) ready) = some .notABuiltFrame := by decide
/-- Before INIT no frame is sent (rule R261). -/
theorem test_rdreq_before_init : refusal (exec (.rdreqHolding 1 10 0xA4 0x08) State.reset) = some .notInitialised := by
  decide
/-- A response that is awaited is decoded, one that is not only arrives. -/
theorem test_rdrspHolding :
    (after (exec (.rdrspHolding 1 2 [0x00, 0x64] 0xB9 0xAF) awaiting)).result = .outcome (.value 100) ∧
    (after (exec (.rdrspHolding 1 2 [0x00, 0x64] 0xB9 0xAF) ready)).chan.rxq = golden := by decide
theorem test_rdrspInput :
    (after (exec (.rdrspInput 1 2 [0x80, 0x00] 0xD8 0xF0) awaiting)).result = .outcome (.value 32768) := by decide
theorem test_wrrsp : (after (exec (.wrrsp 1 5 1 0x11 0xC9) awaiting)).result = .outcome .checksumError ∧
    (after (exec (.wrrsp 1 5 1 0x11 0xC9) awaiting)).rxLen = 8 := by decide

/-- A 5-byte exception response is no frame of the block; it arrives in RXQ all the same (P7). -/
theorem test_received_other : (after (step (setInputs [.present (.received [0x01, 0x83, 0x02, 0xC0, 0xF1])] ready))).chan.rxq =
    [0x01, 0x83, 0x02, 0xC0, 0xF1] := by decide
/-- Bytes the block does not build are not sent (U13), a reserved op code is refused (R110). -/
theorem test_refused_codes : refusal (step (setInputs [.present (.sent [1, 3, 2])] ready)) = some .notABuiltFrame ∧
    refusal (step (setInputs [.present (.command 5 0)] ready)) = some (.notAnInstruction "reserved op code") := by decide

/-! ## INIT, SET_BAUDRATE, FLUSH (part 2.8) -/

theorem test_init : (after (exec (.init 2 9600 256 4 5 17 16) State.reset)).cfg = ready.cfg ∧
    (after (exec (.init 2 9600 256 4 5 17 16) State.reset)).gpio = ready.gpio ∧
    tokens (after (exec (.init 2 9600 256 4 5 17 16) State.reset)).trace =
      [.configure ⟨2, 9600, 8, false, 1, 17, 16, 256⟩, .line false] := by decide
theorem test_init_refused : refusal (exec (.init 2 4799 256 4 5 17 16) State.reset) = some .illegalConfiguration ∧
    refusal (exec (.init 2 9600 128 4 5 17 16) State.reset) = some .illegalConfiguration := by decide
theorem test_setBaudrate : (after (exec (.setBaudrate 115200) ready)).cfg.baud = 115200 ∧
    (after (exec .guardTime (after (exec (.setBaudrate 115200) ready)))).guardUs = 347 := by decide
theorem test_setBaudrate_refused : refusal (exec (.setBaudrate 4799) ready) = some .illegalBaudRate := by decide
theorem test_flush : (after (exec .flush (setRxq [0, 0, 0, 0] { quietFor 2 with txMode := true }))).chan.rxq = [] ∧
    (after (exec .flush (setRxq [0, 0, 0, 0] { quietFor 2 with txMode := true }))).txMode = true := by decide
theorem test_flush_refused : refusal (exec .flush State.reset) = some .notInitialised := by decide

/-! ## GUARD_TIME and the exchanges (parts 2.6, 2.7, 3) -/

theorem test_guardTime : (after (exec .guardTime ready)).guardUs = 4166 ∧
    guardTimeOf 0 40001 = 999 ∧ guardTimeOf 0 40000001 = 0 := by decide
/-- P2: the third attempt succeeds. -/
theorem test_request_third_attempt : (after (exec (.request 1 3 10) thirdTime)).outValue = 100 ∧
    (after (exec (.request 1 3 10) thirdTime)).attempt = 3 ∧
    framesSent (after (exec (.request 1 3 10) thirdTime)).trace = 3 := by decide
/-- P4, rule R105: an unsupported function. -/
theorem test_request_unsupported :
    tokens (after (exec (.request 1 5 10) ready)).trace = [.finished .unsupportedFunction] ∧
    (after (exec (.request 1 5 10) ready)).req = ⟨1, .readHolding, 10, 0⟩ := by decide
/-- P3: a silent slave. -/
theorem test_set_silent : (after (exec (.set 1 5 42) (quietFor 17))).outTag = .noResponse ∧
    (after (exec (.set 1 5 42) (quietFor 17))).poll = 10 ∧
    (after (exec (.set 1 5 42) (quietFor 17))).seqLog =
      [.transmitting, .lineSwitchDelay, .awaitingResponse, .idle] := by decide
/-- A read response makes SET succeed (part 2.7). -/
theorem test_set_answered_by_a_read :
    (after (exec (.set 1 5 42) { ready with script := answerSlots golden ++ [Slot.quiet, Slot.quiet] })).outValue = 100 := by
  decide
theorem test_transact : (after (exec .transact thirdTime)).result = .outcome (.value 100) := by decide
/-- The first step after reset with an instruction placed. -/
theorem test_withFetchWord : (after (step (State.reset.withFetchWord 107
    (0x08828201000012C00 + 0x0000010010 * 2 ^ 67)))).cfg = ready.cfg := by decide

/-! ## Witnesses: states and operands that meet the hypotheses of the obligations -/

theorem witness_EncodedInstructionsDecodeBack :
    encode (.init 2 4800 129 4 5 17 16) = some (.command (cmdWord (initArg 2 4800 4 5 17) 0) (initExt 129 16)) := rfl
/-- For each op code two words that agree in what the command uses and differ elsewhere; a reserved one presented. -/
theorem witness_ReservedOpcodesAndIgnoredBits :
    (cmdOp 5 = 5 ∧ 5 ≤ (cmdOp 5).toNat ∧ ready.busy = false ∧
      ({ ready with inputs := [.present (.command 5 0)] } : State).inputs = .present (.command 5 0) :: []) ∧
    (cmdOp 0x7FFFFFFF8000E1001 = cmdOp 0x000000000000E1001 ∧ cmdOp 0x000000000000E1001 = 1 ∧
      (cmdArg 0x7FFFFFFF8000E1001).extractLsb' 0 32 = (cmdArg 0x000000000000E1001).extractLsb' 0 32) ∧
    (cmdOp 0x7FFFFFFFFFFFFFFFA = cmdOp 2 ∧ cmdOp 2 = 2) ∧
    (cmdOp 0x7FFFFFFF80050180B = cmdOp 0x0000000000050180B ∧ cmdOp 0x0000000000050180B = 3 ∧
      (cmdArg 0x7FFFFFFF80050180B).extractLsb' 0 32 = (cmdArg 0x0000000000050180B).extractLsb' 0 32) ∧
    (cmdOp 0x7FFF801500028000C = cmdOp 0x0000001500028000C ∧ cmdOp 0x0000001500028000C = 4 ∧
      (cmdArg 0x7FFF801500028000C).extractLsb' 0 8 = (cmdArg 0x0000001500028000C).extractLsb' 0 8 ∧
      (cmdArg 0x7FFF801500028000C).extractLsb' 16 32 = (cmdArg 0x0000001500028000C).extractLsb' 16 32) := by
  decide
theorem witness_StepRunsThePresentedInstruction :
    ({ ready with inputs := [.present (.command 2 0)] } : State).inputs = .present (.command 2 0) :: [] ∧
    decode (.command 2 0) = .ok .flush := by decide
/-- A byte pending, and an environment that sends it at its next point. -/
def sending : State := { ready with chan := { ready.chan with txPend := [0xAB] }, script := [⟨[.drain], 0⟩] }

/-- The endless run from there in which only the environment acts. -/
def sendingRun : Nat → State
  | 0 => sending
  | n + 1 => environment (sendingRun n)

/-- Both forms of an idle step; a weakly fair run that starts with a byte pending. -/
theorem witness_IdleStepIsTheEnvironmentsAlone : (ready.inputs = [] ∧
    ∃ rest, ({ ready with inputs := [.idle] } : State).inputs = .idle :: rest) ∧
    IsRun sendingRun ∧ (∀ x ∈ (sendingRun 0).inputs, x = .idle) ∧ WeaklyFair sendingRun ∧
    (sendingRun 0).chan.txPend = [0xAB] := by
  have hin : ∀ n, (sendingRun n).inputs = [] := fun n => by
    induction n with
    | zero => rfl
    | succ n ih => simpa [sendingRun] using ih
  have hsent : ∀ n, (sendingRun (n + 1)).chan.txPend = [] ∧ written (sendingRun (n + 1)).chan = [0xAB] := fun n => by
    induction n with
    | zero => exact ⟨rfl, rfl⟩
    | succ n ih =>
      have hw : written (sendingRun (n + 1 + 1)).chan = [0xAB] := (environment_written _).trans ih.2
      have hp : (sendingRun (n + 1)).chan.txLine.length ≤ (sendingRun (n + 1 + 1)).chan.txLine.length :=
        (environment_txLine _).length_le
      have h1 : (sendingRun (n + 1)).chan.txLine.length = 1 := by
        have := congrArg List.length ih.2
        simpa [written, ih.1] using this
      refine ⟨List.eq_nil_of_length_eq_zero ?_, hw⟩
      have := congrArg List.length hw
      simp only [written, List.length_append, List.length_map, List.length_cons, List.length_nil] at this
      omega
  refine ⟨⟨rfl, [], rfl⟩, fun n => ?_, by simp [hin], fun n hn => ?_, rfl⟩
  · simp [step, fetch, hin n, sendingRun]
  · exact absurd (hsent n).1 (hn (n + 1) (Nat.le_succ n))
theorem witness_ResetInputResetsRegistersNotTheEnvironment :
    ({ ready with inputs := [.reset] } : State).inputs = .reset :: [] := rfl
/-- The invariant holds of an initialised state, and a step from there is a next state. -/
theorem witness_InvariantKeptByEveryStep : MachineInv ready ∧ ∃ t, step ready = .next t := by
  refine ⟨⟨rfl, rfl, by decide, .inl rfl, by decide, by decide, fun _ => by decide, fun h => ?_⟩, _, rfl⟩
  cases h
theorem witness_ConfigurationChangesOnlyByInitAndSetBaudrate :
    (∃ t, exec .guardTime ready = .next t) ∧ (∃ t, exec (.init 2 4800 129 4 5 17 16) State.reset = .next t) ∧
    (∃ t, exec (.setBaudrate 4800) ready = .next t) := ⟨⟨_, rfl⟩, ⟨_, rfl⟩, ⟨_, rfl⟩⟩
theorem witness_LineChangesOnlyWhereSetTransmitIsInvoked :
    (∃ t, exec .guardTime ready = .next t) ∧ (∃ t, exec .transact ready = .next t) ∧
    (∃ t, exec (.setTransmit true) ready = .next t) ∧ (∃ t, exec (.request 1 4 10) ready = .next t) ∧
    (∃ t, exec (.set 1 5 42) ready = .next t) ∧ (∃ t, exec (.init 2 4800 129 4 5 17 16) ready = .next t) ∧
    (∃ t, exec (.rdrspHolding 1 2 [0x00, 0x64] 0xB9 0xAF) ready = .next t) ∧
    encode (.rdreqHolding 1 10 0xA4 0x08) = some (.sent [0x01, 0x03, 0x00, 0x0A, 0x00, 0x01, 0xA4, 0x08]) :=
  ⟨⟨_, rfl⟩, ⟨_, rfl⟩, ⟨_, rfl⟩, ⟨_, rfl⟩, ⟨_, rfl⟩, ⟨_, rfl⟩, ⟨_, rfl⟩, by decide⟩
theorem witness_ValidityIsAZeroResidue : 2 ≤ ([0xFF, 0xFF] : List Byte).length := by decide
theorem witness_SingleByteCorruptionIsDetected :
    crcValid golden = true ∧ golden[6]? = some 0xAF ∧ (0xAE : Byte) ≠ 0xAF := by decide
theorem witness_TrailingZerosKeepAFrameValid : crcValid golden = true := by decide
theorem witness_SetTransmitIsIdempotent : GpioWf ready.gpio ∧ pinsFollowLine ready := ⟨by decide, rfl, rfl⟩
/-- Boundary: 6 bytes. -/
theorem witness_BufferedResponseIsReadAtOnce :
    (setRxq [1, 2, 3, 4, 5, 6] (quietFor 2)).script = Slot.quiet :: Slot.quiet :: [] ∧
    5 < (setRxq [1, 2, 3, 4, 5, 6] (quietFor 2)).chan.rxq.length := by decide
/-- Boundary: 5 bytes. -/
theorem witness_TooFewBytesAreNoResponse :
    (setRxq [1, 2, 3, 4, 5] (quietFor 10)).script = List.replicate 10 Slot.quiet ++ [] ∧
    (setRxq [1, 2, 3, 4, 5] (quietFor 10)).chan.rxq.length ≤ 5 := by decide
theorem witness_BuildReadRequestBuildsTheFrame :
    ((3 : Byte) = 3 ∨ (3 : Byte) = 4) ∧ ((4 : Byte) = 3 ∨ (4 : Byte) = 4) ∧ (5 : Byte) ≠ 3 ∧ (5 : Byte) ≠ 4 := by decide
theorem witness_BuiltFramesPassValidation : (∃ t, exec (.buildReadRequest 1 4 10) ready = .next t) ∧
    (∃ t, exec (.buildWriteRequest 1 5 42) ready = .next t) := ⟨⟨_, rfl⟩, ⟨_, rfl⟩⟩
/-- Lengths 3 and 4; a checksum wrong and right; functions 3, 4, 16 and another. -/
theorem witness_DecodeResponseTestsInOrder : ([1, 3, 2] : List Byte).length < 4 ∧
    4 ≤ ([0xFF, 0xFF, 0, 0] : List Byte).length ∧ crcValid corrupt1 = false ∧
    (crcValid golden = true ∧ golden[1]? = some 3) ∧
    (crcValid [0x01, 0x04, 0x02, 0x00, 0x2A, 0x38, 0xEF] = true) ∧
    (crcValid [0x01, 0x10, 0x00, 0x05, 0x00, 0x01, 0x11, 0xC8] = true) ∧
    (crcValid [0xFF, 0xFF, 0, 0] = true ∧ ([0xFF, 0xFF, 0, 0] : List Byte)[1]? = some 0xFF) := by decide
theorem witness_LongPayloadsKeepTheLastFourBytes :
    (4 : Byte).toNat = ([] : List Byte).length + 4 ∧ (5 : Byte).toNat = ([9] : List Byte).length + 4 := by decide
theorem witness_UncheckedFieldsDoNotMatter : (2 : Byte).toNat ≤ ([0x00, 0x64] : List Byte).length ∧
    crcValid [0x01, 0x10, 0x00, 0x05, 0x00, 0x01, 0x11, 0xC8] = true ∧
    2 ≤ ([0x00, 0x05, 0x00, 0x01, 0x11, 0xC8] : List Byte).length := by decide
/-- Boundary: address 255. -/
theorem witness_EchoedRequestsDecodeAsValues : ((4 : Byte) = 3 ∨ (4 : Byte) = 4) ∧ (255 : Half).toNat < 256 := by decide
/-- The three kinds, each with its checksum and with another; ready, busy, and before INIT. -/
theorem witness_RequestFramesAreSent :
    (encode (.rdreqHolding 1 10 0xA4 0x08) = some (.sent [0x01, 0x03, 0x00, 0x0A, 0x00, 0x01, 0xA4, 0x08]) ∧
      wellFormed (.rdreqHolding 1 10 0xA4 0x08) = true ∧ wellFormed (.rdreqHolding 1 10 0xA4 0x09) = false) ∧
    (encode (.rdreqInput 1 10 0x11 0xC8) = some (.sent [0x01, 0x04, 0x00, 0x0A, 0x00, 0x01, 0x11, 0xC8]) ∧
      wellFormed (.rdreqInput 1 10 0x11 0xC8) = true ∧ wellFormed (.rdreqInput 1 10 0x10 0xC8) = false) ∧
    (encode (.wrreq 1 5 42 0x27 0xDA) =
      some (.sent [0x01, 0x10, 0x00, 0x05, 0x00, 0x01, 0x02, 0x00, 0x2A, 0x27, 0xDA]) ∧
      wellFormed (.wrreq 1 5 42 0x27 0xDA) = true ∧ wellFormed (.wrreq 1 5 42 0x27 0xDB) = false) ∧
    (ready.busy = false ∧ ready.initialised = true) ∧ (accept ready).busy = true ∧
    (State.reset.busy = false ∧ State.reset.initialised = false) := by decide
/-- One of them longer than 16 bytes, one of 5 bytes, and bytes that are no frame; awaited with room for the whole frame, and
not awaited. -/
theorem witness_ResponseFramesAreDecoded :
    encode (.rdrspHolding 1 2 [0x00, 0x64] 0xB9 0xAF) = some (.received golden) ∧
    encode (.rdrspHolding 1 0 [] 0 0) = some (.received [1, 3, 0, 0, 0]) ∧
    encode (.rdrspInput 1 12 (List.replicate 12 0) 0 0) = some (.received ([1, 4, 12] ++ List.replicate 14 0)) ∧
    encode (.wrrsp 1 5 1 0x11 0xC8) = some (.received [0x01, 0x10, 0x00, 0x05, 0x00, 0x01, 0x11, 0xC8]) ∧
    (setInputs [.present (.received [0x01, 0x83, 0x02, 0xC0, 0xF1])] ready).inputs =
      .present (.received [0x01, 0x83, 0x02, 0xC0, 0xF1]) :: [] ∧
    (ready.seq ≠ .awaitingResponse ∧ ready.chan.rxq.length + golden.length ≤ rxCapacity ready.chan) ∧
    (awaiting.seq = .awaitingResponse ∧ awaiting.chan.rxq = [] ∧ 17 ≤ rxCapacity awaiting.chan ∧ 6 ≤ golden.length ∧
      awaiting.script = Slot.quiet :: Slot.quiet :: Slot.quiet :: []) := by decide
theorem witness_ExpectedResponsesGiveTheirValue : awaiting.seq = .awaitingResponse ∧ awaiting.chan.rxq = [] ∧
    8 ≤ rxCapacity awaiting.chan ∧ awaiting.script = Slot.quiet :: Slot.quiet :: Slot.quiet :: [] := by decide
theorem witness_InitConfiguresAndReceives :
    State.reset.busy = false ∧ ready.busy = false ∧ (4800 : Word) ≤ 4800 ∧ (128 : Word) < 129 := by decide
theorem witness_IllegalInitIsRefused : State.reset.busy = false ∧ (4799 : Word) < 4800 ∧ (128 : Word) ≤ 128 := by decide
theorem witness_CommandsBeforeInitAreRefused : State.reset.busy = false ∧ State.reset.initialised = false := by decide
/-- A command of the repertoire and a reserved one. -/
theorem witness_CommandsWhileBusyHaveNoEffect :
    (accept ready).busy = true ∧
    (setInputs [.present (.command 2 0)] (accept ready)).inputs = .present (.command 2 0) :: [] ∧
    (setInputs [.present (.command 7 0)] (accept ready)).inputs = .present (.command 7 0) :: [] := ⟨rfl, rfl, rfl⟩
theorem witness_SetBaudrateChangesTheRateAlone :
    ready.busy = false ∧ ready.initialised = true ∧ (4800 : Word) ≤ 4800 := by decide
theorem witness_LowBaudrateIsRefused : ready.busy = false ∧ ready.initialised = true ∧ (4799 : Word) < 4800 := by decide
theorem witness_FlushEmptiesTheReceiveQueueAndCompletes : (quietFor 2).busy = false ∧ (quietFor 2).initialised = true ∧
    (quietFor 2).script = Slot.quiet :: Slot.quiet :: [] := by decide
theorem witness_GuardTimeIsFortyBitTimes : ready.cfg.baud ≠ 0 := by decide
theorem witness_GuardTimeOfALegalRateIsBounded : (4800 : Word) ≤ ready.cfg.baud ∧
    (4800 : Word) ≤ ({ ready with cfg := ⟨2, 40000001, 256, 4, 5, 17, 16⟩ } : State).cfg.baud := by decide
theorem witness_UnsupportedFunctionFailsAtOnce :
    (quietFor 1).busy = false ∧ (quietFor 1).initialised = true ∧ (16 : Byte) ≠ 3 ∧ (16 : Byte) ≠ 4 ∧
    (quietFor 1).script = Slot.quiet :: [] := by decide
theorem witness_RequestAlwaysEndsWithAnOutcome :
    ready.busy = false ∧ ready.initialised = true ∧ ((3 : Byte) = 3 ∨ (3 : Byte) = 4) ∧ ready.cfg.baud ≠ 0 := by decide
theorem witness_SetAlwaysEndsWithAnOutcome :
    ready.busy = false ∧ ready.initialised = true ∧ ready.cfg.baud ≠ 0 := by decide

/-- The operations that run an exchange, from the state after INIT: for every statement about an exchange. -/
theorem witness_Exchanging_request (s : State) (hb : s.busy = false) (hi : s.initialised = true) :
    Exchanging (.request 1 3 10) s [0x01, 0x03, 0x00, 0x0A, 0x00, 0x01, 0xA4, 0x08] := by
  have h : withChecksum (readRequestBody 1 3 10) = [0x01, 0x03, 0x00, 0x0A, 0x00, 0x01, 0xA4, 0x08] := by decide
  exact h ▸ Exchanging.request 1 3 10 s hb hi (.inl rfl)
theorem witness_Exchanging_set (s : State) (hb : s.busy = false) (hi : s.initialised = true) :
    Exchanging (.set 1 5 42) s [0x01, 0x10, 0x00, 0x05, 0x00, 0x01, 0x02, 0x00, 0x2A, 0x27, 0xDA] := by
  have h : withChecksum (writeRequestBody 1 5 42) =
      [0x01, 0x10, 0x00, 0x05, 0x00, 0x01, 0x02, 0x00, 0x2A, 0x27, 0xDA] := by decide
  exact h ▸ Exchanging.set 1 5 42 s hb hi
theorem witness_Exchanging : Exchanging (.request 1 3 10) ready [0x01, 0x03, 0x00, 0x0A, 0x00, 0x01, 0xA4, 0x08] ∧
    Exchanging (.set 1 5 42) ready [0x01, 0x10, 0x00, 0x05, 0x00, 0x01, 0x02, 0x00, 0x2A, 0x27, 0xDA] ∧
    Exchanging .transact ready (txFrame ready) ∧
    Exchanging (.rdreqHolding 1 10 0xA4 0x08) ready (readRequestFrame 1 3 10 0xA4 0x08) ∧
    Exchanging (.rdreqInput 1 10 0x11 0xC8) ready (readRequestFrame 1 4 10 0x11 0xC8) ∧
    Exchanging (.wrreq 1 5 42 0x27 0xDA) ready (writeRequestFrame 1 5 42 0x27 0xDA) :=
  ⟨witness_Exchanging_request ready rfl rfl, witness_Exchanging_set ready rfl rfl, .transact ready,
    .rdreqHolding 1 10 0xA4 0x08 ready rfl rfl (by decide), .rdreqInput 1 10 0x11 0xC8 ready rfl rfl (by decide),
    .wrreq 1 5 42 0x27 0xDA ready rfl rfl (by decide)⟩
theorem witness_SequencerFollowsItsTable :
    Exchanging (.request 1 3 10) ready [0x01, 0x03, 0x00, 0x0A, 0x00, 0x01, 0xA4, 0x08] ∧ ready.seq = .idle :=
  ⟨witness_Exchanging.1, rfl⟩
/-- REQUEST, SET and a request frame. -/
theorem witness_EarlierRegisterContentsDoNotMatter :
    (Exchanging (.request 1 3 10) ready [0x01, 0x03, 0x00, 0x0A, 0x00, 0x01, 0xA4, 0x08] ∧ Instr.request 1 3 10 ≠ .transact) ∧
    (Exchanging (.set 1 5 42) ready [0x01, 0x10, 0x00, 0x05, 0x00, 0x01, 0x02, 0x00, 0x2A, 0x27, 0xDA] ∧
      Instr.set 1 5 42 ≠ .transact) ∧
    (Exchanging (.wrreq 1 5 42 0x27 0xDA) ready (writeRequestFrame 1 5 42 0x27 0xDA) ∧
      Instr.wrreq 1 5 42 0x27 0xDA ≠ .transact) :=
  ⟨⟨witness_Exchanging.1, by decide⟩, ⟨witness_Exchanging.2.1, by decide⟩, ⟨witness_Exchanging.2.2.2.2.2, by decide⟩⟩
theorem witness_SilentSlaveGivesNoResponse :
    Exchanging (.set 1 5 42) (quietFor 17) [0x01, 0x10, 0x00, 0x05, 0x00, 0x01, 0x02, 0x00, 0x2A, 0x27, 0xDA] ∧
    (quietFor 17).script = silentSlots ++ endSlots (.set 1 5 42) ++ [] := ⟨witness_Exchanging_set _ rfl rfl, rfl⟩

/-- The valid response decodes to 100, whatever the numbers of the free values are. -/
theorem golden_decodes (base : Nat) : decodeBytes base golden = .value 100 := by
  have hv : crcValid golden = true := by decide
  have hp : readPayload base golden = 100 := by
    have h3 : byteAt base golden 3 = 0x00 := rfl
    have h4 : byteAt base golden 4 = 0x64 := rfl
    have hn : (byteAt base golden 2).toNat = 2 := rfl
    simp only [readPayload, hn, List.range_succ, List.range_zero, List.nil_append, List.cons_append, List.foldl_cons,
      List.foldl_nil, h3, h4]
    decide
  have hl : ¬ golden.length < 4 := by decide
  have hf : isReadFunction (byteAt base golden 1) = true := rfl
  simp only [decodeBytes, if_neg hl, hv, hf, if_true, hp]

theorem witness_ThirdAttemptSucceedsAfterTwoCorruptResponses :
    Exchanging (.request 1 3 10) thirdTime [0x01, 0x03, 0x00, 0x0A, 0x00, 0x01, 0xA4, 0x08] ∧
    (∀ r ∈ [corrupt1, corrupt2, golden], 6 ≤ r.length ∧ r.length ≤ 16) ∧ crcValid corrupt1 = false ∧
    crcValid corrupt2 = false ∧ (∀ base, decodeBytes base golden = .value 100) ∧
    thirdTime.script = answerSlots corrupt1 ++ answerSlots corrupt2 ++ answerSlots golden ++
      Slot.quiet :: (endSlots (.request 1 3 10) ++ []) := by
  refine ⟨witness_Exchanging_request _ rfl rfl, by decide, by decide, by decide, golden_decodes, rfl⟩
theorem witness_LegacyViewsAndTheirCollisions : isValue .noResponse = false ∧ tagCode (tagOf (.value 1)) =
    tagCode (tagOf (.value 2)) := by decide

end Sys2Proof.Tests
end

section
/-! What a step runs when a code is presented (00_scope.md rule R8, 30_encoding.md rule R103, log entry 3). -/

namespace Sys2Proof.Machine

open Sys2Proof

/-- A presented code is looked up with its stimulus consumed. -/
theorem fetch_of_inputs_eq_present {s : State} {c : Code} {rest : List Input} (h : s.inputs = .present c :: rest) :
    fetch s = fetchCode c (setInputs rest s) := by
  rw [fetch, h]

theorem fetchCode_of_decode_eq_ok {c : Code} {i : Instr} (h : decode c = .ok i) (s : State) :
    fetchCode c s = .instr i s := by
  rw [fetchCode, h]

theorem step_of_fetch_eq_instr {s s' : State} {i : Instr} (h : fetch s = .instr i s') : step s = exec i s' := by
  rw [step, h]

/-- Settles O4: fetch finds the decoded instruction, and a step that finds an instruction is `exec` of it. -/
theorem stepRunsThePresentedInstruction : Obligations.StepRunsThePresentedInstruction := by
  intro s c i rest hinputs hdecode
  have hfetch : fetch s = .instr i (setInputs rest s) :=
    (fetch_of_inputs_eq_present hinputs).trans (fetchCode_of_decode_eq_ok hdecode _)
  exact step_of_fetch_eq_instr hfetch

end Sys2Proof.Machine
end

section
/-! What a guarded operation can answer (30_encoding.md rule R103, 45_host_operations.md rules R252, R257, R261,
43_frame_codec.md rule R182), and when a step finds an instruction (10_state.md rule R43): one inversion lemma each. -/

namespace Sys2Proof.Machine

open Sys2Proof

variable {s t : State}

/-- A command that needs the configuration: without effect while BUSY, else its body from the accepted state. -/
theorem whenInitialised_eq_next {body : State → State} (h : whenInitialised body s = .next t) :
    (s.busy = true ∧ t = s) ∨ (s.busy = false ∧ s.initialised = true ∧ t = body (accept s)) := by
  unfold whenInitialised at h
  split at h
  case isTrue hbusy => cases h; exact .inl ⟨hbusy, rfl⟩
  case isFalse hbusy =>
    split at h
    case isTrue hinit => cases h; exact .inr ⟨eq_false_of_ne_true hbusy, hinit, rfl⟩
    case isFalse => cases h

/-- A request frame that is not refused is the command that sends it. -/
theorem whenInitialised_of_sendFrame_eq_next {frame built : List Byte} {body : State → State}
    (h : sendFrame frame built body s = .next t) : whenInitialised body s = .next t := by
  unfold sendFrame at h
  split at h
  · exact h
  · cases h

theorem execInit_eq_next {port : Byte} {baud rxCap : Word} {pinDe pinRe pinTx pinRx : Byte}
    (h : execInit port baud rxCap pinDe pinRe pinTx pinRx s = .next t) :
    (s.busy = true ∧ t = s) ∨ (s.busy = false ∧ legalConfiguration baud rxCap = true ∧
      t = initBody ⟨port, baud, rxCap, pinDe, pinRe, pinTx, pinRx⟩ (accept s)) := by
  unfold execInit at h
  split at h
  case isTrue hbusy => cases h; exact .inl ⟨hbusy, rfl⟩
  case isFalse hbusy =>
    split at h
    case isTrue hlegal => cases h; exact .inr ⟨eq_false_of_ne_true hbusy, hlegal, rfl⟩
    case isFalse => cases h

theorem execSetBaudrate_eq_next {baud : Word} (h : execSetBaudrate baud s = .next t) :
    (s.busy = true ∧ t = s) ∨
    (s.busy = false ∧ s.initialised = true ∧ Config.minBaud ≤ baud ∧ t = baudBody baud (accept s)) := by
  unfold execSetBaudrate at h
  split at h
  case isTrue hbusy => cases h; exact .inl ⟨hbusy, rfl⟩
  case isFalse hbusy =>
    split at h
    case isTrue hinit =>
      split at h
      case isTrue hbaud => cases h; exact .inr ⟨eq_false_of_ne_true hbusy, hinit, hbaud, rfl⟩
      case isFalse => cases h
    case isFalse => cases h

/-- BUILD_READ_REQUEST answers for a read function only (43_frame_codec.md rule R182). -/
theorem execBuildReadRequest_eq_next {unitId function : Byte} {addr : Half}
    (h : execBuildReadRequest unitId function addr s = .next t) : t = buildRead unitId function addr s := by
  unfold execBuildReadRequest at h
  split at h
  · cases h; rfl
  · cases h

theorem fetchOther_ne_instr (c : Code) (s : State) (i : Instr) (s' : State) : fetchOther c s ≠ .instr i s' := by
  unfold fetchOther
  split
  · split <;> simp
  · simp
  · simp

/-- Looking up a code finds an instruction only where the code decodes to it. -/
theorem fetchCode_eq_instr {c : Code} {s' : State} {i : Instr} (hfetch : fetchCode c s = .instr i s') :
    decode c = .ok i ∧ s' = s := by
  unfold fetchCode at hfetch
  split at hfetch
  case h_1 hdecode => cases hfetch; exact ⟨hdecode, rfl⟩
  case h_2 => exact absurd hfetch (fetchOther_ne_instr c s i s')

/-- The next stimulus, where it is an instruction, is a presented code that decodes to it. -/
theorem fetch_eq_instr {s' : State} {i : Instr} (hfetch : fetch s = .instr i s') :
    ∃ c rest, decode c = .ok i ∧ s' = setInputs rest s := by
  unfold fetch at hfetch
  split at hfetch
  case h_1 | h_2 | h_3 => cases hfetch
  case h_4 c rest _ =>
    obtain ⟨hdecode, rfl⟩ := fetchCode_eq_instr hfetch
    exact ⟨c, rest, hdecode, rfl⟩

end Sys2Proof.Machine
end

section
/-! Which operations leave the configuration alone (10_state.md rule R27): all but INIT and SET_BAUDRATE. -/

namespace Sys2Proof.Machine

open Sys2Proof

/-- `CFG` and `INITIALISED` are what they were. -/
def SameConfiguration (s t : State) : Prop := t.cfg = s.cfg ∧ t.initialised = s.initialised

theorem SameConfiguration.trans {s t u : State} (h : SameConfiguration s t) (k : SameConfiguration t u) :
    SameConfiguration s u := ⟨k.1.trans h.1, k.2.trans h.2⟩

/-- The result an operation returns is no configuration. -/
theorem SameConfiguration.setResult {s t : State} (h : SameConfiguration s t) (r : OpResult) :
    SameConfiguration s (setResult r t) := h

theorem Untouched.sameConfiguration {s t : State} (h : Untouched s t) : SameConfiguration s t :=
  ⟨h.cfg, h.initialised⟩

/-- What FLUSH leaves alone (45_host_operations.md rule R259). -/
theorem flushBody_keeps (s : State) :
    (flushBody s).cfg = s.cfg ∧ (flushBody s).initialised = s.initialised ∧ (flushBody s).txMode = s.txMode ∧
    (flushBody s).seq = s.seq ∧ (flushBody s).poll = s.poll ∧ (flushBody s).txLen = s.txLen ∧
    (flushBody s).rxLen = s.rxLen ∧ (flushBody s).gpio = s.gpio ∧
    (flushBody s).chan.settings = s.chan.settings := by
  simp [flushBody, serFlush]

theorem flushBody_sameConfiguration (s : State) : SameConfiguration s (flushBody s) := by
  obtain ⟨hcfg, hinit, -⟩ := flushBody_keeps s
  exact ⟨hcfg, hinit⟩

/-- A command that needs the configuration keeps it when its body does. -/
theorem whenInitialised_sameConfiguration {body : State → State} (hbody : ∀ u, SameConfiguration u (body u))
    {s t : State} (h : whenInitialised body s = .next t) : SameConfiguration s t := by
  obtain ⟨-, rfl⟩ | ⟨-, -, rfl⟩ := whenInitialised_eq_next h
  · exact ⟨rfl, rfl⟩
  · exact SameConfiguration.trans ⟨accept_cfg s, accept_initialised s⟩ (hbody (accept s))

theorem runTransact_sameConfiguration (s : State) : SameConfiguration s (runTransact s).2 := by
  obtain ⟨_, _, htransacted⟩ := runTransact_spec s
  exact htransacted.untouched.sameConfiguration

theorem runTransaction_sameConfiguration (s : State) : SameConfiguration s (runTransaction s) := by
  obtain ⟨hcfg, hinit⟩ := runTransact_sameConfiguration s
  exact ⟨by simpa [runTransaction] using hcfg, by simpa [runTransaction] using hinit⟩

/-- What REQUEST writes before TRANSACT is no configuration, no pin and no channel, and the frame it builds has the length
of a read request (44_transaction_manager.md rule R222). -/
theorem prepareRead_keeps (unitId function : Byte) (addr : Half) (s : State) :
    (prepareRead unitId function addr s).cfg = s.cfg ∧
    (prepareRead unitId function addr s).initialised = s.initialised ∧
    (prepareRead unitId function addr s).gpio = s.gpio ∧ (prepareRead unitId function addr s).chan = s.chan ∧
    (prepareRead unitId function addr s).txLen = Config.readReqLen := by
  simp [prepareRead, buildRead, buildFrame, computeGuardTime]

/-- The same of SET and a write request (rule R225). -/
theorem prepareWrite_keeps (unitId : Byte) (addr value : Half) (s : State) :
    (prepareWrite unitId addr value s).cfg = s.cfg ∧
    (prepareWrite unitId addr value s).initialised = s.initialised ∧
    (prepareWrite unitId addr value s).gpio = s.gpio ∧ (prepareWrite unitId addr value s).chan = s.chan ∧
    (prepareWrite unitId addr value s).txLen = Config.writeReqLen := by
  simp [prepareWrite_spec]

theorem requestBody_sameConfiguration (unitId function : Byte) (addr : Half) (s : State) :
    SameConfiguration s (requestBody unitId function addr s) := by
  unfold requestBody
  split
  case isTrue =>
    obtain ⟨hcfg, hinit, -⟩ := prepareRead_keeps unitId function addr s
    exact SameConfiguration.trans ⟨hcfg, hinit⟩ (runTransaction_sameConfiguration _)
  case isFalse => exact ⟨by simp, by simp⟩

theorem setBody_sameConfiguration (unitId : Byte) (addr value : Half) (s : State) :
    SameConfiguration s (setBody unitId addr value s) := by
  obtain ⟨hcfg, hinit, -⟩ := prepareWrite_keeps unitId addr value s
  exact SameConfiguration.trans ⟨hcfg, hinit⟩ (runTransaction_sameConfiguration _)

theorem receiveFrame_sameConfiguration (bytes : List Byte) (s : State) :
    SameConfiguration s (receiveFrame bytes s) := by
  by_cases hseq : s.seq = .awaitingResponse
  · obtain ⟨o, u, _, _, hanswered, hreceive⟩ := receiveFrame_awaited bytes hseq
    rw [hreceive]
    have harrived : SameConfiguration s (environment (deliver bytes s)) := ⟨by simp, by simp⟩
    exact (harrived.trans hanswered.untouched.sameConfiguration).setResult (.outcome o)
  · rw [receiveFrame_unawaited bytes hseq]
    exact ⟨deliver_cfg s bytes, deliver_initialised s bytes⟩

theorem transportReadResponse_sameConfiguration (s : State) :
    SameConfiguration s (transportReadResponse s).2 := by
  obtain ⟨_, _, hpolled⟩ := transportReadResponse_spec s
  exact hpolled.listening.untouched.sameConfiguration

theorem decodeAlone_sameConfiguration (bytes : List Byte) (s : State) :
    SameConfiguration s (decodeAlone bytes s) := by
  rw [decodeAlone_spec]
  exact ⟨rfl, rfl⟩

theorem execRequest_sameConfiguration {unitId function : Byte} {addr : Half} {s t : State}
    (h : execRequest unitId function addr s = .next t) : SameConfiguration s t :=
  whenInitialised_sameConfiguration (requestBody_sameConfiguration unitId function addr) h

theorem execSet_sameConfiguration {unitId : Byte} {addr value : Half} {s t : State}
    (h : execSet unitId addr value s = .next t) : SameConfiguration s t :=
  whenInitialised_sameConfiguration (setBody_sameConfiguration unitId addr value) h

/-- Every instruction but the two that write the configuration keeps it. -/
theorem exec_sameConfiguration {i : Instr} {s t : State} (h : exec i s = .next t)
    (hinit : ∀ p b c de re tx rx, i ≠ .init p b c de re tx rx) (hbaud : ∀ b, i ≠ .setBaudrate b) :
    SameConfiguration s t := by
  cases i with
  | init p b c de re tx rx => exact absurd rfl (hinit p b c de re tx rx)
  | setBaudrate b => exact absurd rfl (hbaud b)
  | rdreqHolding | rdreqInput => exact execRequest_sameConfiguration (whenInitialised_of_sendFrame_eq_next h)
  | wrreq => exact execSet_sameConfiguration (whenInitialised_of_sendFrame_eq_next h)
  | request => exact execRequest_sameConfiguration h
  | set => exact execSet_sameConfiguration h
  | flush => exact whenInitialised_sameConfiguration flushBody_sameConfiguration h
  | rdrspHolding | rdrspInput | wrrsp => cases h; exact receiveFrame_sameConfiguration _ s
  | tWrite bytes =>
    obtain ⟨-, -, huntouched⟩ := transportWrite_spec bytes s
    cases h; exact huntouched.sameConfiguration
  | tReadResponse => cases h; exact (transportReadResponse_sameConfiguration s).setResult _
  | transact => cases h; exact (runTransact_sameConfiguration s).setResult _
  | decodeResponse bytes => cases h; exact decodeAlone_sameConfiguration bytes s
  | buildReadRequest => rw [execBuildReadRequest_eq_next h]; exact ⟨rfl, rfl⟩
  | buildWriteRequest | checksum | setTransmit | tFlush | tAvailable | guardTime => cases h; exact ⟨rfl, rfl⟩

/-- Settles O10: a busy block keeps the configuration whatever the command; accepted, INIT writes its operands and
SET_BAUDRATE its rate, and `exec_sameConfiguration` covers every other instruction. -/
theorem configurationChangesOnlyByInitAndSetBaudrate : Obligations.ConfigurationChangesOnlyByInitAndSetBaudrate := by
  intro i s t h
  cases i with
  | init p b c de re tx rx =>
    obtain ⟨-, rfl⟩ | ⟨-, -, rfl⟩ := execInit_eq_next h
    · exact .inl ⟨rfl, rfl⟩
    · exact .inr (.inl ⟨p, b, c, de, re, tx, rx, rfl, rfl, rfl⟩)
  | setBaudrate b =>
    obtain ⟨-, rfl⟩ | ⟨-, -, -, rfl⟩ := execSetBaudrate_eq_next h
    · exact .inl ⟨rfl, rfl⟩
    · exact .inr (.inr ⟨b, rfl, rfl, rfl⟩)
  | _ => exact .inl (exec_sameConfiguration h (by simp) (by simp))

end Sys2Proof.Machine
end

section
/-! The invariant of the machine between operations (10_state.md rules R22, R23, R28, R30, R32, R35, R36, 20_memory.md
rule R73): it holds at reset, and every step from a state that has it ends in one that has it. -/

namespace Sys2Proof.Machine

open Sys2Proof

/-- Settles O6: each value is the one `State.reset` is written with, and a command is accepted where BUSY is 0. -/
theorem resetValues : Obligations.ResetValues :=
  ⟨⟨rfl, rfl, rfl, rfl, rfl, rfl, rfl, rfl, rfl⟩, rfl⟩

/-- `rst` (70_reset_and_hazards.md rules R301, R302) establishes the invariant from any state: the pins alone stay, and they
are only to be in canonical form. -/
theorem machineInv_applyReset {s : State} (hgpio : GpioWf s.gpio) : MachineInv (applyReset s) where
  notBusy := rfl
  seqIdle := rfl
  pollBound := Nat.zero_le _
  txLenLegal := .inl rfl
  rxLenBound := Nat.zero_le _
  gpioWf := hgpio
  whenReady := fun hready => nomatch hready
  beforeReady := fun _ => ⟨rfl, rfl⟩

theorem applyReset_reset : applyReset State.reset = State.reset := rfl

/-- Settles O8: the reset state is what `rst` makes of itself, with no pin written. -/
theorem invariantHoldsAtReset : Obligations.InvariantHoldsAtReset := by
  unfold Obligations.InvariantHoldsAtReset
  rw [← applyReset_reset]
  exact machineInv_applyReset reset_gpio_wf

section
variable {s : State} (h : MachineInv s)
include h

/-! ### What touches no register the invariant reads -/

theorem MachineInv.after_setInputs (rest : List Input) : MachineInv (setInputs rest s) :=
  h.congr rfl rfl rfl rfl h.rxLenBound rfl rfl rfl rfl rfl

theorem MachineInv.after_environment : MachineInv (environment s) :=
  h.congr rfl rfl rfl rfl h.rxLenBound rfl rfl rfl (environment_settings s) rfl

/-- Between operations no response is awaited, so that bytes from the line only arrive in RXQ. -/
theorem MachineInv.after_receiveFrame (bytes : List Byte) : MachineInv (receiveFrame bytes s) := by
  rw [receiveFrame_unawaited bytes (by simp [h.seqIdle])]
  exact h.congr rfl rfl rfl rfl h.rxLenBound rfl rfl rfl (deliver_settings bytes s) rfl

/-! ### The host commands once accepted -/

theorem MachineInv.after_flushBody : MachineInv (flushBody (accept s)) := by
  obtain ⟨hcfg, hinit, hmode, hseq, hpoll, htx, hrx, hgpio, hset⟩ := flushBody_keeps (accept s)
  exact h.congr h.notBusy.symm hseq hpoll htx (hrx.trans_le h.rxLenBound) hgpio hinit hcfg hset hmode

/-- INIT with legal operands establishes the invariant's second half, whatever the configuration was. -/
theorem MachineInv.after_initBody {c : Configuration} (hlegal : legalConfiguration c.baud c.rxCap = true) :
    MachineInv (initBody c (accept s)) where
  notBusy := rfl
  seqIdle := h.seqIdle
  pollBound := h.pollBound
  txLenLegal := h.txLenLegal
  rxLenBound := h.rxLenBound
  gpioWf := pinWrite_wf (pinWrite_wf h.gpioWf _ _) _ _
  whenReady := fun _ => ⟨hlegal, by simp [initBody, setTransmit, serConfigure], setTransmit_pins _ false⟩
  beforeReady := fun hready => nomatch hready

/-- SET_BAUDRATE with a legal rate: the capacity, the pins and the line mode stay, and the channel follows the rate. -/
theorem MachineInv.after_baudBody (hready : s.initialised = true) {baud : Word} (hbaud : Config.minBaud ≤ baud) :
    MachineInv (baudBody baud (accept s)) := by
  obtain ⟨hlegal, -, hpins⟩ := h.whenReady hready
  refine ⟨rfl, h.seqIdle, h.pollBound, h.txLenLegal, h.rxLenBound, h.gpioWf, fun _ => ⟨?_, ?_, hpins⟩, ?_⟩
  · simp only [legalConfiguration, Bool.and_eq_true, decide_eq_true_eq] at hlegal ⊢
    exact ⟨hbaud, hlegal.2⟩
  · simp [baudBody, serConfigure]
  · exact fun hnot => absurd (hready.symm.trans hnot) (by decide)

/-- A transaction from a prepared state `p`, which has a frame of legal length in TXF and the line and the channel of `s`:
the retry loop leaves both direction pins at the line mode it ends in, and keeps the configuration and the channel's
settings. -/
theorem MachineInv.after_runTransaction (hready : s.initialised = true) {p : State} (hcfg : p.cfg = s.cfg)
    (hinit : p.initialised = s.initialised) (hgpio : p.gpio = s.gpio) (hset : p.chan.settings = s.chan.settings)
    (hlen : p.txLen = Config.readReqLen ∨ p.txLen = Config.writeReqLen) : MachineInv (runTransaction p) := by
  obtain ⟨hlegal, hsettings, -⟩ := h.whenReady hready
  obtain ⟨_, _, ht⟩ := runTransact_spec p
  have hcfg' : (runTransact p).2.cfg = s.cfg := ht.untouched.cfg.trans hcfg
  have hinit' : (runTransact p).2.initialised = true := (ht.untouched.initialised.trans hinit).trans hready
  rw [runTransaction_eq]
  refine ⟨rfl, rfl, ht.poll, .inr ?_, ht.rxLen, ht.gpioWf (hgpio ▸ h.gpioWf), fun _ => ⟨?_, ?_, ?_⟩, ?_⟩
  · exact ht.untouched.txLen ▸ hlen
  · exact hcfg' ▸ hlegal
  · rw [environment_settings, hcfg', ht.untouched.settings]
    exact hset.trans hsettings
  · exact ht.untouched.cfg ▸ ht.pins
  · exact fun hnot => absurd (hinit'.symm.trans hnot) (by decide)

theorem MachineInv.after_requestBody (hready : s.initialised = true) (unitId function : Byte) (addr : Half) :
    MachineInv (requestBody unitId function addr (accept s)) := by
  unfold requestBody
  split
  case isTrue =>
    obtain ⟨hcfg, hinit, hgpio, hchan, hlen⟩ := prepareRead_keeps unitId function addr (accept s)
    exact h.after_runTransaction hready hcfg hinit hgpio (congrArg Channel.settings hchan) (.inl hlen)
  case isFalse => apply h.congr <;> simp [h.notBusy, h.rxLenBound]

theorem MachineInv.after_setBody (hready : s.initialised = true) (unitId : Byte) (addr value : Half) :
    MachineInv (setBody unitId addr value (accept s)) := by
  obtain ⟨hcfg, hinit, hgpio, hchan, hlen⟩ := prepareWrite_keeps unitId addr value (accept s)
  exact h.after_runTransaction hready hcfg hinit hgpio (congrArg Channel.settings hchan) (.inr hlen)

/-- A command that needs the configuration keeps the invariant when its body does. -/
theorem MachineInv.of_whenInitialised_eq_next {body : State → State} {t : State}
    (hbody : s.initialised = true → MachineInv (body (accept s))) (hnext : whenInitialised body s = .next t) :
    MachineInv t := by
  obtain ⟨-, rfl⟩ | ⟨-, hready, rfl⟩ := whenInitialised_eq_next hnext
  · exact h
  · exact hbody hready

/-! ### The encoded instructions: an internal operation has no bits, and no step fetches one (30_encoding.md rule R90) -/

theorem MachineInv.of_exec_eq_next {i : Instr} {t : State} (hcode : (encode i).isSome = true)
    (hnext : exec i s = .next t) : MachineInv t := by
  cases i with
  | rdreqHolding | rdreqInput =>
    exact h.of_whenInitialised_eq_next (fun hready => h.after_requestBody hready ..)
      (whenInitialised_of_sendFrame_eq_next hnext)
  | wrreq =>
    exact h.of_whenInitialised_eq_next (fun hready => h.after_setBody hready ..)
      (whenInitialised_of_sendFrame_eq_next hnext)
  | rdrspHolding | rdrspInput | wrrsp => cases hnext; exact h.after_receiveFrame _
  | init =>
    obtain ⟨-, rfl⟩ | ⟨-, hlegal, rfl⟩ := execInit_eq_next hnext
    · exact h
    · exact h.after_initBody hlegal
  | setBaudrate =>
    obtain ⟨-, rfl⟩ | ⟨-, hready, hbaud, rfl⟩ := execSetBaudrate_eq_next hnext
    · exact h
    · exact h.after_baudBody hready hbaud
  | flush => exact h.of_whenInitialised_eq_next (fun _ => h.after_flushBody) hnext
  | request => exact h.of_whenInitialised_eq_next (fun hready => h.after_requestBody hready ..) hnext
  | set => exact h.of_whenInitialised_eq_next (fun hready => h.after_setBody hready ..) hnext
  | checksum | setTransmit | tFlush | tAvailable | tWrite | tReadResponse | buildReadRequest | buildWriteRequest
  | decodeResponse | guardTime | transact => cases hcode

end

/-! ### A stimulus that is no instruction, and the step -/

/-- A code that decodes to nothing: where the step answers, bytes from the line have arrived, since a command word with a
reserved op code is refused in a block that is not busy. -/
theorem MachineInv.of_fetchOther_eq_settled {s s' : State} {c : Code} (h : MachineInv s)
    (hfetch : fetchOther c s = .settled s') : MachineInv s' := by
  cases c with
  | command => simp [fetchOther, h.notBusy] at hfetch
  | sent => cases hfetch
  | received bytes => cases hfetch; exact h.after_receiveFrame bytes

theorem MachineInv.of_fetch_eq_settled {s s' : State} (h : MachineInv s) (hfetch : fetch s = .settled s') :
    MachineInv s' := by
  unfold fetch at hfetch
  split at hfetch
  · cases hfetch; exact h.after_environment
  · cases hfetch; exact (h.after_setInputs _).after_environment
  · cases hfetch; exact machineInv_applyReset h.gpioWf
  · unfold fetchCode at hfetch
    split at hfetch
    · cases hfetch
    · exact (h.after_setInputs _).of_fetchOther_eq_settled hfetch

/-- Settles O9: a step runs an encoded instruction from a state with the invariant, or none. -/
theorem invariantKeptByEveryStep : Obligations.InvariantKeptByEveryStep := by
  intro s t h hstep
  unfold step at hstep
  split at hstep
  case h_1 i s' hfetch =>
    obtain ⟨c, rest, hdecode, rfl⟩ := fetch_eq_instr hfetch
    exact (h.after_setInputs rest).of_exec_eq_next (encode_isSome_of_decode hdecode) hstep
  case h_2 s' hfetch => cases hstep; exact h.of_fetch_eq_settled hfetch
  case h_3 => cases hstep

end Sys2Proof.Machine
end

section
/-! Steps with no command presented (20_memory.md rules R65, R72, log entries 2 and 3): each is one interaction point of the
environment, so that an endless run of them that is weakly fair sends every pending byte. -/

namespace Sys2Proof.Machine

open Sys2Proof

/-- No command is presented: no stimulus is left, or the next one is idle time. -/
def NoCommand (l : List Input) : Prop := l = [] ∨ ∃ rest, l = .idle :: rest

theorem noCommand_of_all_idle {l : List Input} (h : ∀ x ∈ l, x = .idle) : NoCommand l := by
  cases l with
  | nil => exact .inl rfl
  | cons x rest =>
    obtain rfl := h x List.mem_cons_self
    exact .inr ⟨rest, rfl⟩

theorem setInputs_self (s : State) : setInputs s.inputs s = s := rfl

theorem step_of_noCommand {s : State} (h : NoCommand s.inputs) :
    step s = .next (environment (setInputs s.inputs.tail s)) := by
  rcases h with hnil | ⟨rest, hidle⟩
  · have htail : s.inputs.tail = s.inputs := by rw [hnil]; rfl
    rw [htail, setInputs_self, step, fetch, hnil]
  · rw [step, fetch, hidle]; rfl

section
variable {run : Nat → State} (hrun : IsRun run) (hidle : ∀ x ∈ (run 0).inputs, x = .idle)
include hrun

theorem IsRun.succ_of_noCommand {n : Nat} (h : NoCommand (run n).inputs) :
    run (n + 1) = environment (setInputs (run n).inputs.tail (run n)) := by
  have hnext : Host.Outcome.next (run (n + 1)) = .next (environment (setInputs (run n).inputs.tail (run n))) :=
    (hrun n).symm.trans (step_of_noCommand h)
  exact Host.Outcome.next.inj hnext

include hidle

/-- A run that starts with idle time alone meets nothing else. -/
theorem IsRun.inputs_idle (n : Nat) : ∀ x ∈ (run n).inputs, x = .idle := by
  induction n with
  | zero => exact hidle
  | succ n ih =>
    rw [hrun.succ_of_noCommand (noCommand_of_all_idle ih), environment_inputs, setInputs_inputs]
    exact fun x hx => ih x (List.mem_of_mem_tail hx)

/-- Such a run loses no byte handed to the channel and changes no order (rule R65). -/
theorem IsRun.written_idle (n : Nat) : written (run n).chan = written (run 0).chan := by
  induction n with
  | zero => rfl
  | succ n ih =>
    rw [hrun.succ_of_noCommand (noCommand_of_all_idle (hrun.inputs_idle hidle n)), environment_written, setInputs_chan, ih]

end

/-- Where bytes are pending for ever, a weakly fair run sends any number of them. -/
theorem WeaklyFair.txLine_unbounded {run : Nat → State} (hfair : WeaklyFair run)
    (hpending : ∀ n, (run n).chan.txPend ≠ []) (k : Nat) : ∃ n, k ≤ (run n).chan.txLine.length := by
  induction k with
  | zero => exact ⟨0, Nat.zero_le _⟩
  | succ k ih =>
    obtain ⟨n, hn⟩ := ih
    obtain ⟨m, -, hm⟩ := hfair n fun m _ => hpending m
    exact ⟨m, by omega⟩

theorem txPend_eq_nil_iff (c : Channel) : c.txPend = [] ↔ (written c).length ≤ c.txLine.length := by
  simp [written]

/-- While no byte handed to the channel is lost or added, a weakly fair run comes to a moment with none pending. -/
theorem WeaklyFair.exists_txPend_eq_nil {run : Nat → State} (hfair : WeaklyFair run)
    (hwritten : ∀ n, written (run n).chan = written (run 0).chan) : ∃ n, (run n).chan.txPend = [] := by
  by_contra! hpending
  obtain ⟨n, hn⟩ := hfair.txLine_unbounded hpending (written (run 0).chan).length
  exact hpending n ((txPend_eq_nil_iff _).2 (by rwa [hwritten n]))

/-- Settles O5: an idle step is one interaction point, and a weakly fair run of them cannot keep a byte pending for ever,
since TXLINE would outgrow the bytes written. -/
theorem idleStepIsTheEnvironmentsAlone : Obligations.IdleStepIsTheEnvironmentsAlone := by
  refine ⟨fun s hnone => ?_, fun run hrun hidle hfair => ?_⟩
  · have hacted : EnvironmentActed s.txMode s.chan (environment (setInputs s.inputs.tail s)).chan :=
      environment_acted (setInputs s.inputs.tail s)
    exact ⟨_, step_of_noCommand hnone, rfl, hacted.spec⟩
  · have hwritten := hrun.written_idle hidle
    obtain ⟨n, hsent⟩ := hfair.exists_txPend_eq_nil hwritten
    refine ⟨n, hsent, ?_⟩
    rw [← hwritten n, written, hsent, List.append_nil]

end Sys2Proof.Machine
end

section
/-! An exchange from its command (44_transaction_manager.md rules R222, R225): what comes before TRANSACT acts on nothing
outside the block and reads no buffered byte. -/

namespace Sys2Proof.Machine

open Sys2Proof

/-- Accepted, `i` runs `prepare` and then a transaction; `prepare` takes no action and does not look at RXQ. -/
structure Prepares (i : Instr) (prepare : State → State) : Prop where
  exec_eq : ∀ s : State, s.busy = false → s.initialised = true → exec i s = .next (runTransaction (prepare (accept s)))
  trace : ∀ s : State, (prepare s).trace = s.trace
  comm_setRxq : ∀ (q : List Byte) (s : State), prepare (setRxq q s) = setRxq q (prepare s)

theorem whenInitialised_of_ready (body : State → State) {s : State} (hbusy : s.busy = false)
    (hready : s.initialised = true) : whenInitialised body s = .next (body (accept s)) := by
  simp [whenInitialised, hbusy, hready]

theorem prepares_request (unitId : Byte) {function : Byte} (addr : Half) (hread : function = 3 ∨ function = 4) :
    Prepares (.request unitId function addr) (prepareRead unitId function addr) where
  exec_eq s hbusy hready := by
    have hbody : requestBody unitId function addr (accept s) = runTransaction (prepareRead unitId function addr (accept s)) :=
      if_pos ((isReadFunction_iff function).2 hread)
    exact (whenInitialised_of_ready _ hbusy hready).trans (congrArg _ hbody)
  trace s := by rw [prepareRead_spec _ _ _ _ hread]
  comm_setRxq _ _ := rfl

theorem prepares_set (unitId : Byte) (addr value : Half) :
    Prepares (.set unitId addr value) (prepareWrite unitId addr value) where
  exec_eq _ hbusy hready := whenInitialised_of_ready _ hbusy hready
  trace s := by rw [prepareWrite_spec]
  comm_setRxq _ _ := rfl

/-- Instructions with one meaning have one preparation. -/
theorem Prepares.congr {i j : Instr} {prepare : State → State} (h : Prepares j prepare)
    (hexec : ∀ s, exec i s = exec j s) : Prepares i prepare where
  exec_eq s hbusy hready := (hexec s).trans (h.exec_eq s hbusy hready)
  trace := h.trace
  comm_setRxq := h.comm_setRxq

/-- Every exchange but TRANSACT's own is a transaction after such a preparation. -/
theorem Exchanging.prepares {i : Instr} {s : State} {frame : List Byte} (h : Exchanging i s frame) (hi : i ≠ .transact) :
    s.busy = false ∧ s.initialised = true ∧ ∃ prepare, Prepares i prepare := by
  obtain ⟨j, -, hexec, hbusy, hready, hkind⟩ := exchanging_command h hi
  obtain ⟨unitId, function, addr, hread, rfl, -⟩ | ⟨unitId, addr, value, rfl, -⟩ := hkind
  · exact ⟨hbusy, hready, _, (prepares_request unitId addr hread).congr hexec⟩
  · exact ⟨hbusy, hready, _, (prepares_set unitId addr value).congr hexec⟩

end Sys2Proof.Machine
end

section
/-! The discipline of an exchange's actions (20_memory.md rule R80): each stands in its line mode and its state of SEQ. -/

namespace Sys2Proof.Machine

open Sys2Proof

/-- From `s` to `t` the trace gains actions that stand in their line mode and their state of SEQ, and no others. -/
def ActsDisciplined (s t : State) : Prop :=
  ∃ new : List TraceEntry, t.trace = s.trace ++ new ∧ ∀ e ∈ new, disciplined e = true

theorem runTransact_actsDisciplined (s : State) : ActsDisciplined s (runTransact s).2 := by
  obtain ⟨_, new, htransacted⟩ := runTransact_spec s
  exact ⟨new, htransacted.trace, htransacted.disciplined⟩

/-- A transaction adds to TRANSACT's actions its END, in Idle (44_transaction_manager.md rule R226). -/
theorem runTransaction_actsDisciplined (s : State) : ActsDisciplined s (runTransaction s) := by
  obtain ⟨new, htrace, hnew⟩ := runTransact_actsDisciplined s
  refine ⟨new ++ [⟨.finished (runTransact s).1, .idle, (runTransact s).2.txMode, (runTransact s).2.attempt⟩], ?_, ?_⟩
  · rw [runTransaction_eq, htrace, List.append_assoc]
  · intro e he
    rcases List.mem_append.1 he with he | he
    · exact hnew e he
    · rw [List.mem_singleton.1 he]; rfl

/-- Settles O51: TRANSACT's attempts are disciplined, the END of a host command stands in Idle, and what a command does
before TRANSACT is no action. -/
theorem exchangeActionsStandInTheirLineMode : Obligations.ExchangeActionsStandInTheirLineMode := by
  intro i s frame h
  by_cases hi : i = .transact
  · subst hi
    obtain ⟨new, htrace, hnew⟩ := runTransact_actsDisciplined s
    exact ⟨_, new, rfl, htrace, hnew⟩
  · obtain ⟨hbusy, hready, prepare, hprepares⟩ := h.prepares hi
    obtain ⟨new, htrace, hnew⟩ := runTransaction_actsDisciplined (prepare (accept s))
    refine ⟨_, new, hprepares.exec_eq s hbusy hready, ?_, hnew⟩
    rw [htrace, hprepares.trace, accept_trace]

end Sys2Proof.Machine
end

section
/-! Stale input (20_memory.md rules R80, R82): up to the flush of the first attempt nothing depends on RXQ, and the flush
empties it. -/

namespace Sys2Proof.Machine

open Sys2Proof

/-- What RXQ held decides nothing about an environment step but what RXQ holds after it. -/
theorem channelStep_of_rxq (m : Bool) (q : List Byte) (c : Channel) (e : ChannelEvent) :
    ∃ q', channelStep m { c with rxq := q } e = { channelStep m c e with rxq := q' } := by
  cases e with
  | arrive b onFull => exact ⟨_, rfl⟩
  | drain =>
    refine ⟨q, ?_⟩
    cases hpend : c.txPend <;> simp [channelStep, hpend]

theorem channelSteps_setRxq (es : List ChannelEvent) (q : List Byte) (s : State) :
    ∃ q', channelSteps es (setRxq q s) = setRxq q' (channelSteps es s) := by
  suffices h : ∀ (c : Channel) (q : List Byte), ∃ q', es.foldl (channelStep s.txMode) { c with rxq := q } =
      { es.foldl (channelStep s.txMode) c with rxq := q' } by
    obtain ⟨q', hq'⟩ := h s.chan q
    exact ⟨q', congrArg (fun c => { s with chan := c }) hq'⟩
  induction es with
  | nil => exact fun c q => ⟨q, rfl⟩
  | cons e es ih =>
    intro c q
    obtain ⟨q₁, hstep⟩ := channelStep_of_rxq s.txMode q c e
    obtain ⟨q₂, hrest⟩ := ih (channelStep s.txMode c e) q₁
    exact ⟨q₂, by rw [List.foldl_cons, List.foldl_cons, hstep, hrest]⟩

theorem environment_setRxq (q : List Byte) (s : State) : ∃ q', environment (setRxq q s) = setRxq q' (environment s) := by
  obtain ⟨q', h⟩ := channelSteps_setRxq (nextSlot s).events q s
  exact ⟨q', congrArg endSlot h⟩

theorem waitBusyUs_setRxq (n : Word) (q : List Byte) (s : State) :
    ∃ q', waitBusyUs n (setRxq q s) = setRxq q' (waitBusyUs n s) :=
  environment_setRxq q (logAct (.guard n) s)

theorem setSeq_setRxq (n : SeqState) (q : List Byte) (s : State) : setSeq n (setRxq q s) = setRxq q (setSeq n s) := rfl

theorem setTransmit_setRxq (b : Bool) (q : List Byte) (s : State) :
    setTransmit b (setRxq q s) = setRxq q (setTransmit b s) := rfl

theorem txFrame_setRxq (q : List Byte) (s : State) : txFrame (setRxq q s) = txFrame s := rfl

/-- T_WRITE begins with a flush (42_serial_transport.md rule R163). -/
theorem transportWrite_setRxq (bytes q : List Byte) (s : State) :
    transportWrite bytes (setRxq q s) = transportWrite bytes s := rfl

theorem transmitStep_setRxq (q : List Byte) (s : State) : transmitStep (setRxq q s) = transmitStep s := by
  obtain ⟨q₁, hswitch⟩ := environment_setRxq q (setSeq .transmitting s)
  obtain ⟨q₂, hguard⟩ := waitBusyUs_setRxq s.guardUs q₁ (setTransmit true (environment (setSeq .transmitting s)))
  simp only [transmitStep, setSeq_setRxq, hswitch, setTransmit_setRxq, setRxq_guardUs, hguard, txFrame_setRxq,
    transportWrite_setRxq]

theorem attemptOnce_setRxq (q : List Byte) (s : State) : attemptOnce (setRxq q s) = attemptOnce s := by
  rw [attemptOnce, transmitStep_setRxq, ← attemptOnce]

theorem transactLoop_setRxq (k : Nat) (q : List Byte) (s : State) :
    transactLoop (k + 1) (setRxq q s) = transactLoop (k + 1) s := by
  simp only [transactLoop, attemptOnce_setRxq]

theorem runTransact_setRxq (q : List Byte) (s : State) : runTransact (setRxq q s) = runTransact s :=
  transactLoop_setRxq 2 q (setAttempt 1 s)

theorem runTransaction_setRxq (q : List Byte) (s : State) : runTransaction (setRxq q s) = runTransaction s := by
  rw [runTransaction, runTransact_setRxq, ← runTransaction]

theorem execTransact_setRxq (q : List Byte) (s : State) : exec .transact (setRxq q s) = exec .transact s := by
  simp only [exec, execTransact, runTransact_setRxq]

/-- Settles O56: whatever RXQ held, the flush of the first attempt empties it before anything reads it. -/
theorem staleInputIsNeverDecoded : Obligations.StaleInputIsNeverDecoded := by
  intro i s frame q h
  by_cases hi : i = .transact
  · subst hi
    exact ⟨_, rfl, execTransact_setRxq q s⟩
  · obtain ⟨hbusy, hready, prepare, hprepares⟩ := h.prepares hi
    refine ⟨_, hprepares.exec_eq s hbusy hready, ?_⟩
    have hstale : prepare (accept (setRxq q s)) = setRxq q (prepare (accept s)) := hprepares.comm_setRxq q (accept s)
    rw [hprepares.exec_eq (setRxq q s) hbusy hready, hstale, runTransaction_setRxq]

end Sys2Proof.Machine
end

section
/-! The host commands in bits (30_encoding.md rules R103 to R110): the fields of each argument read back, and what the
decoder answers for each op code. -/

namespace Sys2Proof

open Machine

/-- A field of a word is told by its bits. -/
theorem extractLsb'_eq_of_bits {n k w : Nat} {x : BitVec n} {y : BitVec w}
    (h : ∀ i < w, x.getLsbD (k + i) = y.getLsbD i) : x.extractLsb' k w = y := by
  apply BitVec.eq_of_getLsbD_eq
  intro i hi
  rw [BitVec.getLsbD_extractLsb', h i hi, decide_eq_true hi, Bool.true_and]

/-- Words that agree in `len` bits from `a` on agree in every field that lies within these. -/
theorem extractLsb'_congr_of_le {n a len k w : Nat} {x y : BitVec n} (h : x.extractLsb' a len = y.extractLsb' a len)
    (hk : a ≤ k) (hw : k + w ≤ a + len) : x.extractLsb' k w = y.extractLsb' k w := by
  apply BitVec.eq_of_getLsbD_eq
  intro i hi
  have hbit : (x.extractLsb' a len).getLsbD (k - a + i) = (y.extractLsb' a len).getLsbD (k - a + i) := by rw [h]
  rw [BitVec.getLsbD_extractLsb', BitVec.getLsbD_extractLsb', decide_eq_true (by omega), ← Nat.add_assoc,
    Nat.add_sub_cancel' hk] at hbit
  rw [BitVec.getLsbD_extractLsb', BitVec.getLsbD_extractLsb', decide_eq_true hi]
  exact hbit

/-- The fields of INIT's argument lie one above the other (rule R109). -/
@[simp] theorem initArg_fields (port : Byte) (baud : Word) (pinDe pinRe pinTx : Byte) :
    (initArg port baud pinDe pinRe pinTx).extractLsb' 0 32 = baud ∧
    (initArg port baud pinDe pinRe pinTx).extractLsb' 32 8 = port ∧
    (initArg port baud pinDe pinRe pinTx).extractLsb' 40 8 = pinDe ∧
    (initArg port baud pinDe pinRe pinTx).extractLsb' 48 8 = pinRe ∧
    (initArg port baud pinDe pinRe pinTx).extractLsb' 56 8 = pinTx := by
  refine ⟨?_, ?_, ?_, ?_, ?_⟩ <;> refine extractLsb'_eq_of_bits fun i hi => ?_ <;>
    simp (disch := omega) only [initArg_bit, if_pos, if_neg, Nat.zero_add, Nat.add_sub_cancel_left]

/-- The two fields of its side port (rule R109). -/
@[simp] theorem initExt_fields (rxCap : Word) (pinRx : Byte) :
    (initExt rxCap pinRx).extractLsb' 0 8 = pinRx ∧ (initExt rxCap pinRx).extractLsb' 8 32 = rxCap := by
  refine ⟨?_, ?_⟩ <;> refine extractLsb'_eq_of_bits fun i hi => ?_ <;>
    simp (disch := omega) only [initExt_bit, if_pos, if_neg, Nat.zero_add, Nat.add_sub_cancel_left]

@[simp] theorem baudArg_field (baud : Word) : (baudArg baud).extractLsb' 0 32 = baud := by
  refine extractLsb'_eq_of_bits fun i hi => ?_
  simp (disch := omega) only [baudArg_bit, if_pos, Nat.zero_add]

/-- The fields of REQUEST's argument (rule R105). -/
@[simp] theorem requestArg_fields (unitId function : Byte) (addr : Half) :
    (requestArg unitId function addr).extractLsb' 0 8 = unitId ∧
    (requestArg unitId function addr).extractLsb' 8 8 = function ∧
    (requestArg unitId function addr).extractLsb' 16 16 = addr := by
  refine ⟨?_, ?_, ?_⟩ <;> refine extractLsb'_eq_of_bits fun i hi => ?_ <;>
    simp (disch := omega) only [requestArg_bit, if_pos, if_neg, Nat.zero_add, Nat.add_sub_cancel_left]

/-- The fields of SET's argument (rule R106). -/
@[simp] theorem setArg_fields (unitId : Byte) (addr value : Half) :
    (setArg unitId addr value).extractLsb' 0 8 = unitId ∧
    (setArg unitId addr value).extractLsb' 16 16 = addr ∧
    (setArg unitId addr value).extractLsb' 32 16 = value := by
  refine ⟨?_, ?_, ?_⟩ <;> refine extractLsb'_eq_of_bits fun i hi => ?_ <;>
    simp (disch := omega) only [setArg_bit, if_pos, if_neg, Nat.zero_add, Nat.add_sub_cancel_left]

/-! ### The decoder, op code by op code -/

section
variable {cmd : BitVec 67} (ext : BitVec 40)

theorem decodeCommand_init (h : cmdOp cmd = 0) : decodeCommand cmd ext = .ok (.init
    ((cmdArg cmd).extractLsb' 32 8) ((cmdArg cmd).extractLsb' 0 32) (ext.extractLsb' 8 32)
    ((cmdArg cmd).extractLsb' 40 8) ((cmdArg cmd).extractLsb' 48 8) ((cmdArg cmd).extractLsb' 56 8)
    (ext.extractLsb' 0 8)) := by
  rw [decodeCommand, h]; rfl

theorem decodeCommand_setBaudrate (h : cmdOp cmd = 1) :
    decodeCommand cmd ext = .ok (.setBaudrate ((cmdArg cmd).extractLsb' 0 32)) := by
  rw [decodeCommand, h]; rfl

theorem decodeCommand_flush (h : cmdOp cmd = 2) : decodeCommand cmd ext = .ok .flush := by
  rw [decodeCommand, h]; rfl

theorem decodeCommand_request (h : cmdOp cmd = 3) : decodeCommand cmd ext = .ok (.request
    ((cmdArg cmd).extractLsb' 0 8) ((cmdArg cmd).extractLsb' 8 8) ((cmdArg cmd).extractLsb' 16 16)) := by
  rw [decodeCommand, h]; rfl

theorem decodeCommand_set (h : cmdOp cmd = 4) : decodeCommand cmd ext = .ok (.set
    ((cmdArg cmd).extractLsb' 0 8) ((cmdArg cmd).extractLsb' 16 16) ((cmdArg cmd).extractLsb' 32 16)) := by
  rw [decodeCommand, h]; rfl

theorem decodeCommand_reserved (h : 5 ≤ (cmdOp cmd).toNat) : decodeCommand cmd ext = .error .reservedOpcode := by
  unfold decodeCommand
  split
  case h_6 => rfl
  all_goals omega

end

/-- What a command word decodes to is one of the five host commands (rule R104). -/
theorem hostCommand_of_decodeCommand {cmd : BitVec 67} {ext : BitVec 40} {i : Instr}
    (h : decodeCommand cmd ext = .ok i) :
    (∃ port baud rxCap pinDe pinRe pinTx pinRx, i = .init port baud rxCap pinDe pinRe pinTx pinRx) ∨
    (∃ baud, i = .setBaudrate baud) ∨ i = .flush ∨ (∃ unitId function addr, i = .request unitId function addr) ∨
    (∃ unitId addr value, i = .set unitId addr value) := by
  unfold decodeCommand at h
  split at h <;> cases h <;> simp

end Sys2Proof
end

section
/-! Decoding what was encoded (30_encoding.md rules R92 to R95 and R105 to R109). -/

namespace Sys2Proof

open Machine

/-- A read response is told from a write response by its function byte, and its checksum from its data by its end (rule
R98). -/
theorem decodeReceived_readResponseFrame (unitId n : Byte) (data : List Byte) (lo hi : Byte) {function : Byte}
    (h : function ≠ Config.fcWrite) :
    decodeReceived (readResponseFrame unitId function n data lo hi) =
      if function = Config.fcReadHolding then .ok (.rdrspHolding unitId n data lo hi)
      else if function = Config.fcReadInput then .ok (.rdrspInput unitId n data lo hi)
      else .error .notAResponseFrame := by
  simp only [readResponseFrame, decodeReceived, if_neg h, splitChecksum_append]

/-- Settles O1, instruction by instruction: a command word by its op code and the fields of its argument, a frame by its
two-byte fields and, for a read response, by the split at the checksum. -/
theorem encodedInstructionsDecodeBack : Obligations.EncodedInstructionsDecodeBack := by
  intro i c h
  cases i with
  | rdreqHolding => cases h; simp [decode, decodeSent, readRequestFrame, readRequestBody]
  | rdreqInput =>
    cases h
    have hdiffer : Config.fcReadInput ≠ Config.fcReadHolding := by decide
    simp [decode, decodeSent, readRequestFrame, readRequestBody, hdiffer]
  | wrreq => cases h; simp [decode, decodeSent, writeRequestFrame, writeRequestBody]
  | rdrspHolding =>
    cases h
    exact decodeReceived_readResponseFrame _ _ _ _ _ (by decide : Config.fcReadHolding ≠ Config.fcWrite)
  | rdrspInput =>
    cases h
    exact decodeReceived_readResponseFrame _ _ _ _ _ (by decide : Config.fcReadInput ≠ Config.fcWrite)
  | wrrsp => cases h; simp [decode, decodeReceived, writeResponseFrame]
  | init => cases h; simp [decode, decodeCommand_init]
  | setBaudrate => cases h; simp [decode, decodeCommand_setBaudrate]
  | flush => cases h; simp [decode, decodeCommand_flush]
  | request => cases h; simp [decode, decodeCommand_request]
  | set => cases h; simp [decode, decodeCommand_set]
  | checksum | setTransmit | tFlush | tAvailable | tWrite | tReadResponse | buildReadRequest | buildWriteRequest
  | decodeResponse | guardTime | transact => cases h

/-- Settles O3: the decoder run on each word and frame. -/
theorem wordsOfTheSpecDecode : Obligations.WordsOfTheSpecDecode :=
  ⟨by decide, by decide, by decide, by decide, by decide, by decide, by decide, by decide⟩

end Sys2Proof
end

section
/-! Command words that run nothing, and bits that mean nothing (30_encoding.md rules R103, R110, 45_host_operations.md rule
R262). -/

namespace Sys2Proof.Machine

open Sys2Proof

/-- A code that decodes to nothing is answered by its kind (log entry 6). -/
theorem fetchCode_of_decode_eq_error {c : Code} {r : Reject} (h : decode c = .error r) (s : State) :
    fetchCode c s = fetchOther c s := by
  rw [fetchCode, h]

theorem step_of_fetch_eq_settled {s s' : State} (h : fetch s = .settled s') : step s = .next s' := by
  rw [step, h]

theorem step_of_fetch_eq_rejected {s : State} {r : Refusal} (h : fetch s = .rejected r) : step s = .refused r := by
  rw [step, h]

/-- A reserved op code between operations (rule R110). -/
theorem step_of_reservedOpcode {cmd : BitVec 67} {ext : BitVec 40} {s : State} {rest : List Input}
    (hop : 5 ≤ (cmdOp cmd).toNat) (hbusy : s.busy = false) (hinputs : s.inputs = .present (.command cmd ext) :: rest) :
    step s = .refused (.notAnInstruction "reserved op code") := by
  have hdecode : decode (.command cmd ext) = .error .reservedOpcode := decodeCommand_reserved ext hop
  refine step_of_fetch_eq_rejected ?_
  rw [fetch_of_inputs_eq_present hinputs, fetchCode_of_decode_eq_error hdecode]
  simp [fetchOther, hbusy]

/-- Settles O2: a reserved op code decodes to nothing, and op code by op code the decoder reads the fields named alone. -/
theorem reservedOpcodesAndIgnoredBits : Obligations.ReservedOpcodesAndIgnoredBits := by
  intro cmd cmd' ext ext' hop
  refine ⟨fun h5 s rest hbusy hinputs => step_of_reservedOpcode h5 hbusy hinputs, fun h1 hlow => ?_, fun h2 => ?_,
    fun h3 hlow => ?_, fun h4 hunit hhigh => ?_⟩
  · simp only [decode, decodeCommand_setBaudrate _ h1, decodeCommand_setBaudrate _ (hop ▸ h1), hlow]
  · simp only [decode, decodeCommand_flush _ h2, decodeCommand_flush _ (hop ▸ h2)]
  · have hfunction := extractLsb'_congr_of_le (k := 8) (w := 8) hlow (by decide) (by decide)
    have hunit := extractLsb'_congr_of_le (k := 0) (w := 8) hlow (by decide) (by decide)
    have haddr := extractLsb'_congr_of_le (k := 16) (w := 16) hlow (by decide) (by decide)
    simp only [decode, decodeCommand_request _ h3, decodeCommand_request _ (hop ▸ h3), hunit, hfunction, haddr]
  · have haddr := extractLsb'_congr_of_le (k := 16) (w := 16) hhigh (by decide) (by decide)
    have hvalue := extractLsb'_congr_of_le (k := 32) (w := 16) hhigh (by decide) (by decide)
    simp only [decode, decodeCommand_set _ h4, decodeCommand_set _ (hop ▸ h4), hunit, haddr, hvalue]

/-! ### A busy block -/

section
variable {s : State} (hbusy : s.busy = true)
include hbusy

theorem whenInitialised_of_busy (body : State → State) : whenInitialised body s = .next s := by
  rw [whenInitialised, if_pos hbusy]

/-- No host command is accepted while BUSY = 1. -/
theorem exec_of_busy_of_decodeCommand {cmd : BitVec 67} {ext : BitVec 40} {i : Instr}
    (h : decodeCommand cmd ext = .ok i) : exec i s = .next s := by
  obtain ⟨port, baud, rxCap, pinDe, pinRe, pinTx, pinRx, rfl⟩ | ⟨baud, rfl⟩ | rfl | ⟨unitId, function, addr, rfl⟩ |
    ⟨unitId, addr, value, rfl⟩ := hostCommand_of_decodeCommand h
  · exact if_pos hbusy
  · exact if_pos hbusy
  · exact whenInitialised_of_busy hbusy flushBody
  · exact whenInitialised_of_busy hbusy (requestBody unitId function addr)
  · exact whenInitialised_of_busy hbusy (setBody unitId addr value)

end

/-- Settles O40: a word that decodes runs a host command, which a busy block does not accept; one that does not is let pass. -/
theorem commandsWhileBusyHaveNoEffect : Obligations.CommandsWhileBusyHaveNoEffect := by
  intro cmd ext s rest hbusy hinputs
  refine ⟨by rw [cmdReady, hbusy]; rfl, ?_⟩
  cases hdecode : decode (.command cmd ext) with
  | ok i =>
    rw [stepRunsThePresentedInstruction s _ i rest hinputs hdecode]
    exact exec_of_busy_of_decodeCommand (s := setInputs rest s) hbusy hdecode
  | error r =>
    refine step_of_fetch_eq_settled ?_
    rw [fetch_of_inputs_eq_present hinputs, fetchCode_of_decode_eq_error hdecode]
    exact if_pos hbusy

end Sys2Proof.Machine
end

section
/-! The views of a result (30_encoding.md rules R112 to R114). -/

namespace Sys2Proof.Machine

open Sys2Proof

/-- No two tags share a code (10_state.md rule R34). -/
theorem tagCode_injective : Function.Injective tagCode := by
  intro x y h
  cases x <;> cases y <;> (revert h; decide)

/-- Settles O60: each view of each outcome is a definition's own case; tags are told by their codes. -/
theorem legacyViewsAndTheirCollisions : Obligations.LegacyViewsAndTheirCollisions := by
  refine ⟨fun v => ⟨rfl, rfl, rfl⟩, rfl, rfl, rfl, rfl, rfl, rfl, fun o ho => ?_, fun o o' h => tagCode_injective h⟩
  simp [setOk, setI8, ho]

end Sys2Proof.Machine
end

section
/-! A request frame, or the command that sends it, run from acceptance to its end (44_transaction_manager.md rules R217, R221,
R222, R225; log entry 6). -/

namespace Sys2Proof.Machine

open Sys2Proof

/-- What a transaction from the prepared state `p` leaves in `t` with outcome `o` (rules R217, R221): the outcome written and
the block idle, the frame still in TXF and handed to the channel once per attempt, the configuration and what the host has
still to say untouched. -/
structure Completed (p t : State) (o : ResponseOutcome) : Prop where
  outcome : holdsOutcome t o
  kind : o ≠ .unsupportedFunction
  rspValid : t.rspValid = true
  busy : t.busy = false
  seq : t.seq = .idle
  txMode : t.txMode = isValue o
  frame : txFrame t = txFrame p
  txLen : t.txLen = p.txLen
  attempts : 1 ≤ t.attempt.toNat ∧ t.attempt.toNat ≤ 3
  written : written t.chan = written p.chan ++ (List.replicate t.attempt.toNat (txFrame p)).flatten
  settings : t.chan.settings = p.chan.settings
  cfg : t.cfg = p.cfg
  initialised : t.initialised = p.initialised
  inputs : t.inputs = p.inputs
  result : t.result = p.result

theorem runTransaction_completed (p : State) : ∃ o, Completed p (runTransaction p) o := by
  rw [runTransaction_eq]
  obtain ⟨atts, _, ht⟩ := runTransact_spec p
  generalize runTransact p = r at ht ⊢
  have hcount : r.2.attempt.toNat = atts.length := by
    have hsum : r.2.attempt.toNat + 1 = 1 + atts.length := ht.attempt
    omega
  have hmost : atts.length ≤ 3 := ht.bounded
  have hkept := ht.untouched
  exact ⟨r.1, {
    outcome := holdsOutcome_setOutcome r.1 (environment r.2)
    kind := ht.kind
    rspValid := rfl
    busy := rfl
    seq := rfl
    txMode := ht.txMode
    frame := hkept.txFrame
    txLen := hkept.txLen
    attempts := ⟨hcount ▸ ht.nonempty, hcount ▸ hmost⟩
    written := by rw [environment_written, hcount]; exact ht.written
    settings := (environment_settings r.2).trans hkept.settings
    cfg := hkept.cfg
    initialised := hkept.initialised
    inputs := hkept.inputs
    result := hkept.result }⟩

/-- An exchange from `s` begins in a prepared state with its frame in TXF, and with the configuration, the channel and the
stimuli of `s`. -/
structure Prepared (frame : List Byte) (s p : State) : Prop where
  txFrame : txFrame p = frame
  txLen : p.txLen = frame.length
  chan : p.chan = s.chan
  cfg : p.cfg = s.cfg
  initialised : p.initialised = s.initialised
  inputs : p.inputs = s.inputs
  result : p.result = s.result

theorem prepareRead_prepared (unitId : Byte) {function : Byte} (addr : Half) (s : State)
    (hread : function = 3 ∨ function = 4) :
    Prepared (withChecksum (readRequestBody unitId function addr)) s (prepareRead unitId function addr (accept s)) := by
  refine ⟨txFrame_prepareRead unitId function addr (accept s) hread, ?_, ?_, ?_, ?_, ?_, ?_⟩ <;>
    rw [prepareRead_spec _ _ _ _ hread] <;> rfl

theorem prepareWrite_prepared (unitId : Byte) (addr value : Half) (s : State) :
    Prepared (withChecksum (writeRequestBody unitId addr value)) s (prepareWrite unitId addr value (accept s)) := by
  refine ⟨txFrame_prepareWrite unitId addr value (accept s), ?_, ?_, ?_, ?_, ?_, ?_⟩ <;>
    rw [prepareWrite_spec] <;> rfl

/-- A request frame with its own checksum, in a ready block: a transaction from a state prepared with that frame. -/
theorem exec_sent_of_ready {i : Instr} {frame : List Byte} {s : State} (hcode : encode i = some (.sent frame))
    (hwell : wellFormed i = true) (hbusy : s.busy = false) (hready : s.initialised = true) :
    ∃ p, Prepared frame s p ∧ exec i s = .next (runTransaction p) := by
  obtain ⟨unitId, function, addr, hread, rfl, hexec⟩ | ⟨unitId, addr, value, rfl, hexec⟩ := (exec_sent hcode).1 hwell
  · exact ⟨_, prepareRead_prepared unitId addr s hread,
      (hexec s).trans ((prepares_request unitId addr hread).exec_eq s hbusy hready)⟩
  · exact ⟨_, prepareWrite_prepared unitId addr value s,
      (hexec s).trans ((prepares_set unitId addr value).exec_eq s hbusy hready)⟩

/-- A request frame with its own checksum runs under the conditions of a command that needs the configuration. -/
theorem exec_sent_whenInitialised {i : Instr} {frame : List Byte} (hcode : encode i = some (.sent frame))
    (hwell : wellFormed i = true) : ∃ body, ∀ s, exec i s = whenInitialised body s := by
  obtain ⟨unitId, function, addr, -, -, hexec⟩ | ⟨unitId, addr, value, -, hexec⟩ := (exec_sent hcode).1 hwell
  · exact ⟨_, hexec⟩
  · exact ⟨_, hexec⟩

theorem whenInitialised_of_not_ready (body : State → State) {s : State} (hbusy : s.busy = false)
    (hnot : s.initialised = false) : whenInitialised body s = .refused .notInitialised := by
  simp [whenInitialised, hbusy, hnot]

/-- Settles O34: with its own checksum the frame runs as its command does, in a ready block as a transaction from the state
prepared with it; with another it is refused. -/
theorem requestFramesAreSent : Obligations.RequestFramesAreSent := by
  intro i frame s hcode
  refine ⟨fun hwell hbusy hready => ?_, fun hwell hbusy => ?_, fun hwell hbusy hnot => ?_, fun hill => ?_⟩
  · obtain ⟨p, hp, hexec⟩ := exec_sent_of_ready hcode hwell hbusy hready
    obtain ⟨o, ht⟩ := runTransaction_completed p
    generalize runTransaction p = t at hexec ht
    refine ⟨t, o, hexec, ht.outcome, ht.kind, ht.rspValid, ht.seq, ht.txMode, ht.frame.trans hp.txFrame,
      ht.txLen.trans hp.txLen, ht.attempts.1, ht.attempts.2, ?_, ?_, ?_⟩
    · rw [ht.written, hp.chan, hp.txFrame]
    · rw [ht.settings, hp.chan]
    · exact State.eq_of_fields (ht.cfg.trans hp.cfg) (ht.initialised.trans hp.initialised) rfl (ht.busy.trans hbusy.symm)
        rfl rfl rfl rfl rfl rfl rfl rfl rfl rfl rfl rfl rfl rfl rfl (ht.inputs.trans hp.inputs) rfl rfl
        (ht.result.trans hp.result) rfl rfl
  · obtain ⟨body, hexec⟩ := exec_sent_whenInitialised hcode hwell
    rw [hexec, whenInitialised_of_busy hbusy]
  · obtain ⟨body, hexec⟩ := exec_sent_whenInitialised hcode hwell
    rw [hexec, whenInitialised_of_not_ready body hbusy hnot]
  · exact (exec_sent hcode).2 hill s

end Sys2Proof.Machine
end

section
/-! Bytes from the line (20_memory.md rules R66, R72, 42_serial_transport.md rule R166, 44_transaction_manager.md rule R216; log
entries 6 and 9): where no response is awaited they arrive, where one is they are read and decoded. -/

namespace Sys2Proof.Machine

open Sys2Proof

theorem environment_chan_quiet {s : State} {rest : List Slot} (h : s.script = Slot.quiet :: rest) :
    (environment s).chan = s.chan := by
  rw [environment_quiet h]

/-- Where nothing else happens, a response read takes the first 16 bytes buffered (rules R68, R166). -/
theorem readResponse_quiet {s : State} {rest : List Slot} (h : s.script = Slot.quiet :: rest) :
    rxFrame (readResponse s) = s.chan.rxq.take Config.readMax ∧
    (readResponse s).rxLen = min s.chan.rxq.length Config.readMax := by
  have hread := (serReadBytes_quiet Config.readMax h).1
  constructor
  · rw [readResponse, hread]
    exact rxFrame_loadRxb _ _ (List.length_take_le _ _)
  · rw [readResponse, hread, loadRxb_rxLen, List.length_take, Nat.min_comm]

/-- A poll that sees more than 5 bytes is the last one (rule R166). -/
theorem pollLoop_of_buffered (k : Nat) {s : State} (h : Config.rxThreshold < s.chan.rxq.length) :
    pollLoop (k + 1) s = (true, readResponse (environment (setPoll (s.poll + 1) (logCount s)))) := if_pos h

/-- A response buffered before the first poll, and nothing else happens: its first 16 bytes are in RXB. -/
theorem transportReadResponse_quiet {s : State} {rest : List Slot}
    (hscript : s.script = Slot.quiet :: Slot.quiet :: rest) (h : Config.rxThreshold < s.chan.rxq.length) :
    ∃ t, transportReadResponse s = (true, t) ∧ rxFrame t = s.chan.rxq.take Config.readMax ∧
      t.rxLen = min s.chan.rxq.length Config.readMax := by
  refine ⟨_, pollLoop_of_buffered 9 (s := clearRx (setPoll 0 s)) h, ?_⟩
  generalize hu : setPoll ((clearRx (setPoll 0 s)).poll + 1) (logCount (clearRx (setPoll 0 s))) = u
  have hchan : u.chan = s.chan := by rw [← hu]; rfl
  have hslots : u.script = Slot.quiet :: Slot.quiet :: rest := by rw [← hu]; exact hscript
  have hlast : (environment u).script = Slot.quiet :: rest := by rw [environment_script, hslots]; rfl
  rw [← hchan, ← environment_chan_quiet hslots]
  exact readResponse_quiet hlast

/-- The validate step leaves the response it decodes where it stands (rule R216). -/
theorem validateStep_spec (s : State) :
    (validateStep s).1 = decodeBytes s.fresh (rxFrame s) ∧ (validateStep s).2.seq = .validating ∧
    rxFrame (validateStep s).2 = rxFrame s ∧ (validateStep s).2.rxLen = s.rxLen := by
  obtain ⟨crc, fresh, hwrites⟩ := decodeWrites_spec (rxFrame s) (setSeq .validating s)
  rw [validateStep, hwrites]
  exact ⟨rfl, rfl, rfl, rfl⟩

/-- Such a response is decoded. -/
theorem awaitAndValidate_quiet {s : State} {rest : List Slot} (hscript : s.script = Slot.quiet :: Slot.quiet :: rest)
    (h : Config.rxThreshold < s.chan.rxq.length) :
    ∃ base, (awaitAndValidate s).1 = decodeBytes base (s.chan.rxq.take Config.readMax) ∧
      (awaitAndValidate s).2.seq = .validating ∧
      rxFrame (awaitAndValidate s).2 = s.chan.rxq.take Config.readMax ∧
      (awaitAndValidate s).2.rxLen = min s.chan.rxq.length Config.readMax := by
  obtain ⟨t, hread, hframe, hlen⟩ := transportReadResponse_quiet hscript h
  have hvalidate : awaitAndValidate s = validateStep t := by simp [awaitAndValidate, hread]
  obtain ⟨houtcome, hseq, hkept, hkeptLen⟩ := validateStep_spec t
  rw [hvalidate, ← hframe, ← hlen]
  exact ⟨t.fresh, houtcome, hseq, hkept, hkeptLen⟩

/-- A frame that finds RXQ empty and room stands there alone. -/
theorem deliver_rxq_of_empty {bytes : List Byte} {s : State} (hempty : s.chan.rxq = [])
    (hroom : bytes.length ≤ rxCapacity s.chan) : (deliver bytes s).chan.rxq = bytes := by
  obtain ⟨q, hdeliver, hq⟩ := deliver_spec bytes s
  rw [hempty, List.length_nil, Nat.zero_add] at hq
  rw [hdeliver]
  exact hq hroom

/-- Bytes that are awaited, find RXQ empty and room, and are disturbed by nothing: the first 16 are read and decoded. -/
theorem receiveFrame_quiet {bytes : List Byte} {s : State} {rest : List Slot} (hseq : s.seq = .awaitingResponse)
    (hempty : s.chan.rxq = []) (hroom : bytes.length ≤ rxCapacity s.chan) (hlong : Config.rxThreshold < bytes.length)
    (hscript : s.script = Slot.quiet :: Slot.quiet :: Slot.quiet :: rest) :
    rxFrame (receiveFrame bytes s) = bytes.take Config.readMax ∧
    (receiveFrame bytes s).rxLen = min bytes.length Config.readMax ∧
    (∃ base, (receiveFrame bytes s).result = .outcome (decodeBytes base (bytes.take Config.readMax))) ∧
    (receiveFrame bytes s).seq = .validating := by
  have hreceive : receiveFrame bytes s = setResult (.outcome (awaitAndValidate (environment (deliver bytes s))).1)
      (awaitAndValidate (environment (deliver bytes s))).2 := if_pos hseq
  have hquiet : (deliver bytes s).script = Slot.quiet :: Slot.quiet :: Slot.quiet :: rest := hscript
  have hrxq : (environment (deliver bytes s)).chan.rxq = bytes := by
    rw [environment_chan_quiet hquiet, deliver_rxq_of_empty hempty hroom]
  have hslots : (environment (deliver bytes s)).script = Slot.quiet :: Slot.quiet :: rest := by
    rw [environment_script, hquiet]; rfl
  obtain ⟨base, houtcome, hvalidating, hframe, hlen⟩ := awaitAndValidate_quiet hslots (by rw [hrxq]; exact hlong)
  rw [hrxq] at houtcome hframe hlen
  rw [hreceive]
  exact ⟨hframe, hlen, ⟨base, congrArg OpResult.outcome houtcome⟩, hvalidating⟩

/-- A frame that arrives touches RXQ alone. -/
theorem listening_deliver (bytes : List Byte) (s : State) : Listening s (deliver bytes s) := by
  refine ⟨⟨?_, ?_, ?_, ?_, ?_, ?_, ?_, ?_, ?_, ?_, ?_, ?_, ?_⟩, ?_, ?_, ?_, ?_, ?_, ?_, ?_⟩ <;> simp

/-- What may reach the block from the line is received as the rules say, in every state. -/
theorem receives_receiveFrame (bytes : List Byte) (s : State) : Receives bytes s (.next (receiveFrame bytes s)) where
  unawaited hseq := by
    obtain ⟨q, hdeliver, hq⟩ := deliver_spec bytes s
    refine ⟨_, rfl, ?_⟩
    rw [receiveFrame_unawaited bytes hseq, hdeliver]
    exact ⟨rfl, hq⟩
  awaited hseq := by
    obtain ⟨o, t, a, new, h, hreceive⟩ := receiveFrame_awaited bytes hseq
    have harrived : Listening s (environment (deliver bytes s)) := (listening_deliver bytes s).trans (listening_environment _)
    have htrace : t.trace = s.trace ++ new := by rw [h.trace, environment_trace, deliver_trace]
    have hkept := harrived.untouched.trans h.untouched
    refine ⟨_, o, a, new, rfl, ?_⟩
    rw [hreceive]
    refine ⟨rfl, htrace, h.tokens, h.legal, h.explained, leavesResponse_congr h.left rfl rfl rfl,
      h.written.trans harrived.written, hkept.settings, ?_⟩
    exact State.eq_of_fields hkept.cfg hkept.initialised (h.txMode.trans harrived.txMode) hkept.busy rfl
      (h.attempt.trans harrived.attempt) rfl hkept.req hkept.outTag hkept.outValue hkept.rspValid hkept.txf hkept.txLen
      rfl rfl rfl hkept.guardUs rfl (h.gpio.trans harrived.gpio) hkept.inputs rfl rfl rfl rfl rfl
  alone rest hseq hempty hroom h6 hscript := by
    obtain ⟨hframe, hlen, ⟨base, hresult⟩, hvalidating⟩ := receiveFrame_quiet hseq hempty hroom h6 hscript
    exact ⟨_, base, rfl, hframe, hlen, hresult, hvalidating⟩

/-- Settles O35: a response frame run as an instruction, and any bytes presented to the step, are received. -/
theorem responseFramesAreDecoded : Obligations.ResponseFramesAreDecoded := by
  refine ⟨fun i frame s hcode => ?_, fun bytes s rest hinputs => ?_⟩
  · rw [exec_received hcode]; exact receives_receiveFrame frame s
  · rw [step_received hinputs]; exact receives_receiveFrame bytes (setInputs rest s)

end Sys2Proof.Machine
end

section
/-! The responses to the block's own requests (30_encoding.md rules R94, R95, 43_frame_codec.md rules R188 to R193). -/

namespace Sys2Proof.Machine

open Sys2Proof

/-- A frame built with its checksum passes validation (43_frame_codec.md rule R180, 40_checksum.md rule R136). -/
theorem crcValid_withChecksum (body : List Byte) : crcValid (withChecksum body) = true := by
  have hlen : (withChecksum body).length - 2 = body.length := by simp
  have hbody : (withChecksum body).take body.length = body := List.take_left
  have hlo : (withChecksum body)[body.length]? = some (lo8 (checksum body)) := by simp [withChecksum]
  have hhi : (withChecksum body)[body.length + 1]? = some (hi8 (checksum body)) := by simp [withChecksum]
  have hlast : (withChecksum body).length - 1 = body.length + 1 := by simp
  have hlong : ¬ (withChecksum body).length < 2 := by simp
  simp only [crcValid, if_neg hlong, hlen, hlast, hbody, hlo, hhi, beq_self_eq_true, Bool.and_self]

/-- A valid response is told by its function byte (rule R188). -/
theorem decodeBytes_of_valid {base : Nat} {bytes : List Byte} {function : Byte} (hlen : 4 ≤ bytes.length)
    (hvalid : crcValid bytes = true) (hfunction : bytes[1]? = some function) :
    decodeBytes base bytes = if isReadFunction function then .value (readPayload base bytes)
      else if function = Config.fcWrite then .value Config.writeAckValue else .undecodableFunction := by
  have hbyte : byteAt base bytes 1 = function := by simp [byteAt, hfunction]
  simp only [decodeBytes, if_neg (Nat.not_lt.2 hlen), hvalid, if_true, hbyte]

/-- Two bytes shifted in, one after the other, are the 16-bit word they make, extended by zeros (rule R193). -/
theorem shiftIn_two_bytes (d0 d1 : Byte) :
    ((((0 : Word) <<< 8) ||| d0.zeroExtend 32) <<< 8) ||| d1.zeroExtend 32 = (d0 ++ d1).zeroExtend 32 := by
  apply BitVec.eq_of_getLsbD_eq
  intro i hi
  have happend : (d0 ++ d1).getLsbD i = if i < 8 then d1.getLsbD i else d0.getLsbD (i - 8) := BitVec.getLsbD_append
  by_cases hlow : i < 8
  · simp [happend, hlow, hi]
  · simp [happend, hlow, hi, BitVec.getLsbD_of_ge d1 i (by omega)]

theorem readPayload_two_bytes (base : Nat) (id f d0 d1 : Byte) (rest : List Byte) :
    readPayload base (id :: f :: 2 :: d0 :: d1 :: rest) = (d0 ++ d1).zeroExtend 32 :=
  shiftIn_two_bytes d0 d1

/-- A response with its own checksum, awaited, alone and undisturbed, gives what it decodes to. -/
theorem exec_received_withChecksum {i : Instr} {body : List Byte} {s : State} {rest : List Slot} {v : Word}
    (hcode : encode i = some (.received (withChecksum body))) (hseq : s.seq = .awaitingResponse)
    (hempty : s.chan.rxq = []) (hroom : 8 ≤ rxCapacity s.chan)
    (hscript : s.script = Slot.quiet :: Slot.quiet :: Slot.quiet :: rest)
    (hleast : 4 ≤ body.length) (hmost : body.length ≤ 6)
    (hdecode : ∀ base, decodeBytes base (withChecksum body) = .value v) :
    ∃ t, exec i s = .next t ∧ t.result = .outcome (.value v) ∧ t.seq = .validating := by
  have hlen := withChecksum_length body
  have hlong : 5 < (withChecksum body).length := by omega
  obtain ⟨-, -, ⟨base, hresult⟩, hvalidating⟩ := receiveFrame_quiet hseq hempty (by omega) hlong hscript
  have hshort : (withChecksum body).length ≤ 16 := by omega
  rw [List.take_of_length_le hshort, hdecode] at hresult
  exact ⟨_, exec_received hcode s, hresult, hvalidating⟩

/-- Settles O36: each of the three responses is a body with its own checksum, which decodes to the value. -/
theorem expectedResponsesGiveTheirValue : Obligations.ExpectedResponsesGiveTheirValue := by
  intro id d0 d1 addr qty s rest hseq hempty hroom hscript
  have hread : ∀ f : Byte, isReadFunction f = true → ∀ base,
      decodeBytes base (withChecksum [id, f, 2, d0, d1]) = .value ((d0 ++ d1).zeroExtend 32) := by
    intro f hf base
    rw [decodeBytes_of_valid (by simp) (crcValid_withChecksum _) rfl, if_pos hf]
    exact congrArg ResponseOutcome.value (readPayload_two_bytes base id f d0 d1 _)
  have hwrite : ∀ base, decodeBytes base (withChecksum [id, 16, hi8 addr, lo8 addr, hi8 qty, lo8 qty]) =
      .value Config.writeAckValue := by
    intro base
    rw [decodeBytes_of_valid (by simp) (crcValid_withChecksum _) rfl]
    rfl
  exact ⟨exec_received_withChecksum rfl hseq hempty hroom hscript (by simp) (by simp) (hread 3 rfl),
    exec_received_withChecksum rfl hseq hempty hroom hscript (by simp) (by simp) (hread 4 rfl),
    exec_received_withChecksum rfl hseq hempty hroom hscript (by simp) (by simp) hwrite⟩

end Sys2Proof.Machine
end

section
/-! CHECKSUM is linear over exclusive or, which ties the table to the bit-serial form, and each of its steps is one to one
(40_checksum.md rules R131 to R136). -/

namespace Sys2Proof.Machine

open Sys2Proof

/-! ### The bit-serial form (rule R132) -/

/-- One bit of the bit-serial form adds to the shift the constant, or nothing. -/
theorem crcBit_eq_xor (c : Half) : crcBit c = (c >>> 1) ^^^ (if c.getLsbD 0 then Config.crcPoly else 0) := by
  rw [crcBit]
  split
  · rfl
  · exact BitVec.xor_zero.symm

/-- One bit of the bit-serial form is linear: the shift is, and so is the choice of what is added. -/
theorem crcBit_xor (c d : Half) : crcBit (c ^^^ d) = crcBit c ^^^ crcBit d := by
  have hchoice : ∀ p q : Bool, (if p ^^ q then Config.crcPoly else 0) =
      (if p then Config.crcPoly else 0) ^^^ (if q then Config.crcPoly else 0) := by decide
  have hshift : (c ^^^ d) >>> 1 = (c >>> 1) ^^^ (d >>> 1) := BitVec.ushiftRight_xor_distrib c d 1
  rw [crcBit_eq_xor, crcBit_eq_xor c, crcBit_eq_xor d, hshift, BitVec.getLsbD_xor, hchoice]
  ac_rfl

theorem crcEightBits_xor (c d : Half) : crcEightBits (c ^^^ d) = crcEightBits c ^^^ crcEightBits d := by
  simp only [crcEightBits, crcBit_xor]

/-- A high byte alone is shifted down: no 1 bit leaves at the low end. -/
theorem crcEightBits_high_byte : ∀ h : Byte, crcEightBits (h ++ (0 : Byte)) = h.zeroExtend 16 := by decide +kernel

/-- One step of CHECKSUM by the table is one step bit by bit: the high byte is shifted down, the low byte is looked up. -/
theorem crcStep_eq_crcEightBits (acc : Half) (b : Byte) : crcStep acc b = crcEightBits (acc ^^^ b.zeroExtend 16) := by
  have hhigh : hi8 (acc ^^^ b.zeroExtend 16) = hi8 acc := by rw [hi8_xor, hi8_zeroExtend]; exact BitVec.xor_zero
  calc crcStep acc b
      = (hi8 acc).zeroExtend 16 ^^^ crcEightBits ((lo8 (acc ^^^ b.zeroExtend 16)).zeroExtend 16) := by
        rw [crcStep_eq, shift_eight, crcEntry_generated]
    _ = crcEightBits ((hi8 acc ++ (0 : Byte)) ^^^ (lo8 (acc ^^^ b.zeroExtend 16)).zeroExtend 16) := by
        rw [crcEightBits_xor, crcEightBits_high_byte]
    _ = crcEightBits (acc ^^^ b.zeroExtend 16) := by
        rw [← hhigh, ← half_of_bytes]

theorem checksum_eq_checksumBitSerial (bytes : List Byte) : checksum bytes = checksumBitSerial bytes :=
  congrArg (fun step => bytes.foldl step Config.crcSeed) (funext₂ crcStep_eq_crcEightBits)

/-! ### The table (rules R132, R133) -/

theorem crcTable_getElem? (i : Byte) : crcTable[i.toNat]? = some (crcEightBits (i.zeroExtend 16)) := by
  have h : i.toNat < crcTable.length := by rw [crcTable_length]; exact i.isLt
  rw [← crcEntry_generated, crcEntry, List.getElem?_eq_getElem h, Option.getD_some]

/-- Rule R133's listing is the generated table. -/
theorem crcTable_eq_crcTablePrinted : crcTable = crcTablePrinted := by decide +kernel

/-- Settles O13: a table step and eight bits of the bit-serial form are the same function, so their folds agree. -/
theorem tableAndBitSerialFormsAgree : Obligations.TableAndBitSerialFormsAgree :=
  ⟨crcTable_length, crcTable_getElem?, crcTable_eq_crcTablePrinted, checksum_eq_checksumBitSerial⟩

/-! ### What one step of CHECKSUM leaves (rules R131, R135) -/

/-- A step leaves a byte alone only where it takes the low byte of the checksum; the byte left is then the high one. -/
theorem crcStep_eq_zeroExtend_iff (acc : Half) (lo hi : Byte) :
    crcStep acc lo = hi.zeroExtend 16 ↔ lo = lo8 acc ∧ hi = hi8 acc := by
  have hindex : lo8 (acc ^^^ lo.zeroExtend 16) = lo8 acc ^^^ lo := by rw [lo8_xor, lo8_zeroExtend]
  rw [crcStep_eq, hindex, shift_eight]
  constructor
  · intro h
    have hentry : hi8 (crcEntry (lo8 acc ^^^ lo)) = 0 := by simpa using congrArg hi8 h
    have hzero : lo8 acc ^^^ lo = 0 := crcEntry_high_byte_zero _ hentry
    rw [hzero, crcEntry_zero] at h
    exact ⟨(BitVec.xor_eq_zero_iff.1 hzero).symm, by simpa using (congrArg lo8 h).symm⟩
  · rintro ⟨rfl, rfl⟩
    rw [BitVec.xor_self]
    exact (congrArg (_ ^^^ ·) crcEntry_zero).trans BitVec.xor_zero

/-- A step leaves 0 only where the checksum was the byte it takes. -/
theorem crcStep_eq_zero_iff (acc : Half) (b : Byte) : crcStep acc b = 0 ↔ acc = b.zeroExtend 16 := by
  constructor
  · intro h
    obtain ⟨hlo, hhi⟩ := (crcStep_eq_zeroExtend_iff acc b 0).1 h
    rw [half_of_bytes acc, ← hlo, ← hhi]
    exact BitVec.zero_xor
  · rintro rfl
    rw [crcStep_eq_crcEightBits, BitVec.xor_self]
    rfl

/-- Eight bits of the bit-serial form lose nothing: the form is linear, and only 0 leaves 0. -/
theorem crcEightBits_injective : Function.Injective crcEightBits := by
  intro c d h
  have hzero : crcStep (c ^^^ d) 0 = 0 := by
    rw [crcStep_eq_crcEightBits]
    exact (congrArg crcEightBits BitVec.xor_zero).trans ((crcEightBits_xor c d).trans (BitVec.xor_eq_zero_iff.2 h))
  exact BitVec.xor_eq_zero_iff.1 ((crcStep_eq_zero_iff _ 0).1 hzero)

/-- On one byte, different checksums stay different. -/
theorem crcStep_injective_left (b : Byte) : Function.Injective (crcStep · b) := by
  intro acc acc' h
  simp only [crcStep_eq_crcEightBits] at h
  exact (BitVec.xor_left_inj _).1 (crcEightBits_injective h)

/-- From one checksum, different bytes leave different checksums. -/
theorem crcStep_injective_right (acc : Half) : Function.Injective (crcStep acc) := by
  intro b b' h
  simp only [crcStep_eq_crcEightBits] at h
  simpa using congrArg lo8 ((BitVec.xor_right_inj acc).1 (crcEightBits_injective h))

/-- Appended to a sequence, the checksum's own two bytes, and no others, leave 0 (rule R135 (c)). -/
theorem checksum_append_two_eq_zero_iff (m : List Byte) (lo hi : Byte) :
    checksum (m ++ [lo, hi]) = 0 ↔ lo = lo8 (checksum m) ∧ hi = hi8 (checksum m) := by
  rw [checksum_append]
  exact (crcStep_eq_zero_iff _ hi).trans (crcStep_eq_zeroExtend_iff _ lo hi)

/-- Settles O14: the low byte leaves the high byte alone, and that byte taken next leaves 0. -/
theorem appendedChecksumLeavesZero : Obligations.AppendedChecksumLeavesZero := by
  intro m
  refine ⟨?_, (checksum_append_two_eq_zero_iff m _ _).2 ⟨rfl, rfl⟩⟩
  rw [checksum_append]
  exact (crcStep_eq_zeroExtend_iff _ _ _).2 ⟨rfl, rfl⟩

/-! ### CRC_VALID (rule R136) -/

theorem crcValid_append_two_iff (m : List Byte) (lo hi : Byte) :
    crcValid (m ++ [lo, hi]) = true ↔ lo = lo8 (checksum m) ∧ hi = hi8 (checksum m) := by
  simp [crcValid]

/-- Either verdict says of the last two bytes that they are the checksum of the rest. -/
theorem crcValid_iff_checksum_eq_zero {bytes : List Byte} (hlen : 2 ≤ bytes.length) :
    crcValid bytes = true ↔ checksum bytes = 0 := by
  obtain ⟨lo, hi, hlast⟩ : ∃ lo hi, bytes.drop (bytes.length - 2) = [lo, hi] :=
    List.length_eq_two.1 (by rw [List.length_drop]; omega)
  rw [← List.take_append_drop (bytes.length - 2) bytes, hlast]
  exact (crcValid_append_two_iff _ lo hi).trans (checksum_append_two_eq_zero_iff _ lo hi).symm

/-- Settles O15: a sequence of two bytes or more is some bytes and the two that CRC_VALID compares. -/
theorem validityIsAZeroResidue : Obligations.ValidityIsAZeroResidue := fun _ => crcValid_iff_checksum_eq_zero

theorem two_le_length_of_crcValid {bytes : List Byte} (h : crcValid bytes = true) : 2 ≤ bytes.length := by
  by_contra hshort
  simp [crcValid, Nat.not_le.1 hshort] at h

theorem crcValid_iff (bytes : List Byte) : crcValid bytes = true ↔ 2 ≤ bytes.length ∧ checksum bytes = 0 := by
  constructor
  · intro h
    have hlen := two_le_length_of_crcValid h
    exact ⟨hlen, (crcValid_iff_checksum_eq_zero hlen).1 h⟩
  · rintro ⟨hlen, hzero⟩
    exact (crcValid_iff_checksum_eq_zero hlen).2 hzero

/-! ### Corrupted and padded frames (rules R135, R138, R317) -/

/-- Whatever bytes follow, different checksums stay different. -/
theorem foldl_crcStep_injective (rest : List Byte) : Function.Injective (rest.foldl crcStep) := by
  induction rest with
  | nil => exact Function.injective_id
  | cons b rest ih => exact ih.comp (crcStep_injective_left b)

/-- Sequences that differ in one byte alone have different checksums. -/
theorem checksum_set_eq_iff {bytes : List Byte} {k : Nat} {old : Byte} (b : Byte) (hold : bytes[k]? = some old) :
    checksum (bytes.set k b) = checksum bytes ↔ b = old := by
  obtain ⟨hk, rfl⟩ := List.getElem?_eq_some_iff.1 hold
  have hset : bytes.set k b = bytes.take k ++ b :: bytes.drop (k + 1) := by
    rw [List.set_eq_take_append_cons_drop, if_pos hk]
  have hbytes : bytes = bytes.take k ++ bytes[k] :: bytes.drop (k + 1) := by simp
  calc checksum (bytes.set k b) = checksum bytes
      ↔ checksum (bytes.take k ++ b :: bytes.drop (k + 1)) =
          checksum (bytes.take k ++ bytes[k] :: bytes.drop (k + 1)) := by rw [← hset, ← hbytes]
    _ ↔ crcStep (checksum (bytes.take k)) b = crcStep (checksum (bytes.take k)) bytes[k] := by
        rw [checksum_append, checksum_append, List.foldl_cons, List.foldl_cons]
        exact (foldl_crcStep_injective _).eq_iff
    _ ↔ b = bytes[k] := (crcStep_injective_right _).eq_iff

/-- Settles O16: a valid frame has checksum 0, and the corrupted one, which differs in one byte, has another. -/
theorem singleByteCorruptionIsDetected : Obligations.SingleByteCorruptionIsDetected := by
  intro bytes k b old hvalid hold hdiffers
  rw [← Bool.not_eq_true]
  intro hcorrupt
  have hsame : checksum (bytes.set k b) = checksum bytes :=
    ((crcValid_iff _).1 hcorrupt).2.trans ((crcValid_iff _).1 hvalid).2.symm
  exact hdiffers ((checksum_set_eq_iff b hold).1 hsame)

/-- Zero bytes leave a checksum of 0 as it is (rule R135 (d)). -/
theorem foldl_crcStep_zeros (n : Nat) : (List.replicate n 0).foldl crcStep 0 = 0 := by
  induction n with
  | zero => rfl
  | succ n ih =>
    have hstep : crcStep 0 0 = 0 := (crcStep_eq_zero_iff 0 0).2 rfl
    rw [List.replicate_succ, List.foldl_cons, hstep, ih]

/-- Settles O17: a valid frame has checksum 0, which zero bytes keep. -/
theorem trailingZerosKeepAFrameValid : Obligations.TrailingZerosKeepAFrameValid := by
  intro bytes n hvalid
  obtain ⟨hlen, hzero⟩ := (crcValid_iff bytes).1 hvalid
  refine (crcValid_iff _).2 ⟨by rw [List.length_append]; omega, ?_⟩
  rw [checksum_append, hzero, foldl_crcStep_zeros]

/-! ### CHECKSUM as an operation (rules R130, R131) -/

/-- Settles O12: the operation is the write of `CRC_ACC`, and one byte more is one step more. -/
theorem checksumTakesTheBytesInOrder : Obligations.ChecksumTakesTheBytesInOrder :=
  ⟨fun _ _ => rfl, checksum_nil, fun bytes b => checksum_append bytes [b]⟩

end Sys2Proof.Machine
end

section
/-! SET_TRANSMIT (41_line_direction.md rules R151, R152), and which operations leave the line alone (rule R153). -/

namespace Sys2Proof.Machine

open Sys2Proof

/-! ### SET_TRANSMIT itself (rules R151, R152) -/

/-- Settles O18: what `setTransmit_pins` and `setTransmit_others` say of the pins; the other fields are as written. -/
theorem setTransmitDrivesBothPinsTogether : Obligations.SetTransmitDrivesBothPinsTogether :=
  fun b s => ⟨setTransmit b s, rfl, rfl, rfl, rfl, setTransmit_pins s b,
    fun _ hde hre => setTransmit_others s b hde hre, rfl⟩

/-- The mode already held, with both pins at it, is written to no effect. -/
theorem driveLine_txMode_self {s : State} (hwf : GpioWf s.gpio) (hpins : pinsFollowLine s) :
    driveLine s.txMode s = s := by
  obtain ⟨hde, hre⟩ := hpins
  rw [driveLine, pinWrite_same hwf hde, pinWrite_same hwf hre]

/-- Settles O19: but for the write of the line, SET_TRANSMIT is an entry in the trace. -/
theorem setTransmitIsIdempotent : Obligations.SetTransmitIsIdempotent := by
  intro s hwf hpins
  have hexec : exec (.setTransmit s.txMode) s = .next (logAct (.line s.txMode) (driveLine s.txMode s)) := rfl
  rw [hexec, driveLine_txMode_self hwf hpins, logAct]

/-! ### What leaves the line alone (rule R153) -/

/-- The line mode and every pin are what they were. -/
def SameLine (s t : State) : Prop := t.txMode = s.txMode ∧ t.gpio = s.gpio

theorem SameLine.trans {s t u : State} (h : SameLine s t) (k : SameLine t u) : SameLine s u :=
  ⟨k.1.trans h.1, k.2.trans h.2⟩

/-- The result an operation returns is no line. -/
theorem SameLine.setResult {s t : State} (h : SameLine s t) (r : OpResult) : SameLine s (setResult r t) := h

theorem Listening.sameLine {s t : State} (h : Listening s t) : SameLine s t := ⟨h.txMode, h.gpio⟩

theorem Answered.sameLine {s t : State} {o : ResponseOutcome} {a : AttemptRecord} {new : List TraceEntry}
    (h : Answered s o t a new) : SameLine s t := ⟨h.txMode, h.gpio⟩

theorem transportWrite_sameLine (bytes : List Byte) (s : State) : SameLine s (transportWrite bytes s) := by
  obtain ⟨hmode, hgpio, -⟩ := transportWrite_keeps bytes s
  exact ⟨hmode, hgpio⟩

theorem transportReadResponse_sameLine (s : State) : SameLine s (transportReadResponse s).2 := by
  obtain ⟨_, _, hpolled⟩ := transportReadResponse_spec s
  exact ((listening_start s).trans hpolled.listening).sameLine

theorem receiveFrame_sameLine (bytes : List Byte) (s : State) : SameLine s (receiveFrame bytes s) := by
  have harrived := listening_deliver bytes s
  by_cases hseq : s.seq = .awaitingResponse
  · obtain ⟨o, u, _, _, hanswered, hreceive⟩ := receiveFrame_awaited bytes hseq
    rw [hreceive]
    exact ((harrived.trans (listening_environment _)).sameLine.trans hanswered.sameLine).setResult (.outcome o)
  · rw [receiveFrame_unawaited bytes hseq]
    exact harrived.sameLine

theorem decodeAlone_sameLine (bytes : List Byte) (s : State) : SameLine s (decodeAlone bytes s) := by
  rw [decodeAlone_spec]
  exact ⟨rfl, rfl⟩

theorem flushBody_sameLine (s : State) : SameLine s (flushBody s) := by
  obtain ⟨-, -, hmode, -, -, -, -, hgpio, -⟩ := flushBody_keeps s
  exact ⟨hmode, hgpio⟩

/-- A REQUEST that fails at its check of the function invokes no SET_TRANSMIT (44_transaction_manager.md rule R218). -/
theorem requestBody_sameLine (unitId : Byte) {function : Byte} (addr : Half) (hnot : ¬ (function = 3 ∨ function = 4))
    (s : State) : SameLine s (requestBody unitId function addr s) := by
  rw [requestBody, if_neg (hnot ∘ (isReadFunction_iff function).1)]
  exact ⟨by simp, by simp⟩

/-- A command that needs the configuration keeps the line when its body does. -/
theorem whenInitialised_sameLine {body : State → State} (hbody : ∀ u, SameLine u (body u)) {s t : State}
    (h : whenInitialised body s = .next t) : SameLine s t := by
  obtain ⟨-, rfl⟩ | ⟨-, -, rfl⟩ := whenInitialised_eq_next h
  · exact ⟨rfl, rfl⟩
  · exact SameLine.trans ⟨accept_txMode s, accept_gpio s⟩ (hbody (accept s))

theorem execSetBaudrate_sameLine {baud : Word} {s t : State} (h : execSetBaudrate baud s = .next t) : SameLine s t := by
  obtain ⟨-, rfl⟩ | ⟨-, -, -, rfl⟩ := execSetBaudrate_eq_next h <;> exact ⟨rfl, rfl⟩

/-- Settles O11: the instructions the rule names are told by their syntax, a REQUEST by its function besides; every
other operation has its lemma above or writes neither register. -/
theorem lineChangesOnlyWhereSetTransmitIsInvoked : Obligations.LineChangesOnlyWhereSetTransmitIsInvoked := by
  intro i s t h
  cases i with
  | transact => exact .inr (.inl rfl)
  | setTransmit b => exact .inr (.inr (.inl ⟨b, rfl⟩))
  | rdreqHolding | rdreqInput | wrreq => exact .inr (.inr (.inr (.inl ⟨_, rfl⟩)))
  | request unitId function addr =>
    by_cases hread : function = 3 ∨ function = 4
    · exact .inr (.inr (.inr (.inr (.inl ⟨unitId, function, addr, rfl, hread⟩))))
    · exact .inl (whenInitialised_sameLine (requestBody_sameLine unitId addr hread) h)
  | set unitId addr value => exact .inr (.inr (.inr (.inr (.inr (.inl ⟨unitId, addr, value, rfl⟩)))))
  | init p b c de re tx rx => exact .inr (.inr (.inr (.inr (.inr (.inr ⟨p, b, c, de, re, tx, rx, rfl⟩)))))
  | setBaudrate => exact .inl (execSetBaudrate_sameLine h)
  | flush => exact .inl (whenInitialised_sameLine flushBody_sameLine h)
  | rdrspHolding | rdrspInput | wrrsp => cases h; exact .inl (receiveFrame_sameLine _ s)
  | tWrite bytes => cases h; exact .inl (transportWrite_sameLine bytes s)
  | tReadResponse => cases h; exact .inl ((transportReadResponse_sameLine s).setResult _)
  | decodeResponse bytes => cases h; exact .inl (decodeAlone_sameLine bytes s)
  | buildReadRequest => rw [execBuildReadRequest_eq_next h]; exact .inl ⟨rfl, rfl⟩
  | buildWriteRequest | checksum | tFlush | tAvailable | guardTime => cases h; exact .inl ⟨rfl, rfl⟩

end Sys2Proof.Machine
end

section
/-! The Serial Transport run as operations of its own (42_serial_transport.md rules R160 to R168, R170). -/

namespace Sys2Proof.Machine

open Sys2Proof

/-! ### Flush, count and write (rules R160, R161, R163) -/

/-- Settles O20: T_FLUSH is `serFlush`, which empties RXQ and is logged. -/
theorem tFlushEmptiesTheReceiveQueue : Obligations.TFlushEmptiesTheReceiveQueue := fun _ => rfl

/-- Settles O21: T_AVAILABLE is the poll of the count with the count as its result. -/
theorem tAvailableReturnsTheBufferedCount : Obligations.TAvailableReturnsTheBufferedCount := fun _ => rfl

/-- T_WRITE writes no register (rule R163). -/
theorem transportWrite_frame (bytes : List Byte) (s : State) :
    transportWrite bytes s = { s with
      chan := (transportWrite bytes s).chan, script := (transportWrite bytes s).script,
      fresh := (transportWrite bytes s).fresh, trace := (transportWrite bytes s).trace } := by
  obtain ⟨-, -, h⟩ := transportWrite_spec bytes s
  obtain ⟨htxMode, hgpio, hseq, hseqLog, hattempt, hpoll, hrxb, hrxLen, hcrcAcc⟩ := transportWrite_keeps bytes s
  exact State.eq_of_fields h.cfg h.initialised htxMode h.busy hseq hattempt hpoll h.req h.outTag h.outValue h.rspValid h.txf
    h.txLen hrxb hrxLen hcrcAcc h.guardUs rfl hgpio h.inputs rfl rfl h.result rfl hseqLog

/-- Settles O22: the trace and the bytes written are those of `transportWrite_spec`; the flush comes first, so that earlier
input has no influence. -/
theorem tWriteFlushesWritesAndWaits : Obligations.TWriteFlushesWritesAndWaits := by
  intro bytes s
  obtain ⟨htrace, hwritten, huntouched⟩ := transportWrite_spec bytes s
  exact ⟨transportWrite bytes s, rfl, htrace, hwritten, huntouched.settings,
    fun q => congrArg Host.Outcome.next (transportWrite_setRxq bytes q s), transportWrite_frame bytes s⟩

/-! ### The response read in every environment (rules R165 to R168) -/

/-- A response read writes POLL, the response buffer, the channel and the model's own fields at most. -/
theorem Listening.frame {s t : State} (h : Listening s t) :
    t = { s with
      poll := t.poll, rxb := t.rxb, rxLen := t.rxLen, chan := t.chan, script := t.script, fresh := t.fresh,
      trace := t.trace } :=
  State.eq_of_fields h.untouched.cfg h.untouched.initialised h.txMode h.untouched.busy h.seq h.attempt rfl h.untouched.req
    h.untouched.outTag h.untouched.outValue h.untouched.rspValid h.untouched.txf h.untouched.txLen rfl rfl h.crcAcc
    h.untouched.guardUs rfl h.gpio h.untouched.inputs rfl rfl h.untouched.result rfl h.seqLog

/-- Settles O23: the polling loop of ten polls ends in one of the two ways of `Polled`, and POLL does not wrap on the way. -/
theorem tReadResponseReadsOnceOrGivesUp : Obligations.TReadResponseReadsOnceOrGivesUp := by
  intro s
  obtain ⟨counts, new, hpolled⟩ := transportReadResponse_spec s
  have hlistening := (listening_start s).trans hpolled.listening
  have hframe := congrArg (setResult (.gotBytes (transportReadResponse s).1)) hlistening.frame
  refine ⟨_, counts, new, rfl, hpolled.trace, hpolled.failing, ?_, hlistening.written, hlistening.untouched.settings, hframe⟩
  rcases hpolled.ended with ⟨hgot, hcounts, hpoll, hmin, hmax, hread⟩ | ⟨hgot, hcounts, hpoll, hlen, hkept, htokens⟩
  · have hpolls : (transportReadResponse s).2.poll = BitVec.ofNat 4 (counts.length + 1) := hpoll.trans (BitVec.zero_add _)
    have hnowrap : counts.length + 1 < 2 ^ 4 := Nat.lt_of_le_of_lt hcounts (by decide)
    have hcount : (transportReadResponse s).2.poll.toNat = counts.length + 1 := by
      rw [hpolls, BitVec.toNat_ofNat, Nat.mod_eq_of_lt hnowrap]
    exact .inl ⟨congrArg OpResult.gotBytes hgot, hcounts, hcount, hmin, hmax, hread⟩
  · exact .inr ⟨congrArg OpResult.gotBytes hgot, hcounts, congrArg BitVec.toNat hpoll, hlen, hkept, htokens⟩

/-! ### A response buffered at the first poll (rules R168, R170 (2), (5)) -/

/-- The state after a first poll that saw enough bytes and a quiet slot, the slots in `rest` still to come. -/
def afterBufferedPoll (rest : List Slot) (s : State) : State :=
  { s with
    poll := 1, rxLen := 0, script := rest, fresh := s.fresh + 1,
    trace := s.trace ++ [⟨.count s.chan.rxq.length, s.seq, s.txMode, s.attempt⟩] }

theorem transportReadResponse_of_buffered {s : State} {rest : List Slot} (hscript : s.script = Slot.quiet :: rest)
    (h : Config.rxThreshold < s.chan.rxq.length) :
    transportReadResponse s = (true, readResponse (afterBufferedPoll rest s)) := by
  have hpoll : environment (setPoll (0 + 1) (logCount (clearRx (setPoll 0 s)))) = afterBufferedPoll rest s :=
    environment_quiet hscript
  exact (pollLoop_of_buffered 9 (s := clearRx (setPoll 0 s)) h).trans (congrArg (fun t => (true, readResponse t)) hpoll)

/-- Where nothing else happens, a response read leaves in RXQ what it does not return (rule R68). -/
theorem readResponse_quiet_frame {s : State} {rest : List Slot} (h : s.script = Slot.quiet :: rest) :
    (readResponse s).poll = s.poll ∧
    (readResponse s).chan = { s.chan with rxq := s.chan.rxq.drop Config.readMax } ∧ (readResponse s).script = rest ∧
    (readResponse s).trace = s.trace ++ [⟨.rx (s.chan.rxq.take Config.readMax), s.seq, s.txMode, s.attempt⟩] := by
  rw [readResponse, (serReadBytes_quiet Config.readMax h).2]
  exact ⟨rfl, rfl, rfl, rfl⟩

/-- Settles O24: the first poll is the last one, and both interaction points of the poll and the read are quiet. -/
theorem bufferedResponseIsReadAtOnce : Obligations.BufferedResponseIsReadAtOnce := by
  intro s rest hscript hbuffered
  have hexec : exec .tReadResponse s =
      .next (setResult (.gotBytes true) (readResponse (afterBufferedPoll (Slot.quiet :: rest) s))) := by
    rw [exec, execTReadResponse, transportReadResponse_of_buffered hscript hbuffered]
  obtain ⟨hframe, hlen⟩ := readResponse_quiet (s := afterBufferedPoll (Slot.quiet :: rest) s) rfl
  obtain ⟨hpoll, hchan, hrest, htrace⟩ := readResponse_quiet_frame (s := afterBufferedPoll (Slot.quiet :: rest) s) rfl
  exact ⟨_, hexec, rfl, hpoll, hlen, hframe, hchan, hrest, htrace.trans (List.append_assoc _ _ _)⟩

/-! ### Too few bytes (rules R167, R170 (1), (3)) -/

/-- What a failing poll adds to the trace: the count it saw and the wait after it (rule R166). -/
def failedPollEntries (s : State) : List TraceEntry :=
  [⟨.count s.chan.rxq.length, s.seq, s.txMode, s.attempt⟩, ⟨.yield Config.pollInterval, s.seq, s.txMode, s.attempt⟩]

theorem tokens_replicate_failedPollEntries (k : Nat) (s : State) :
    tokens (List.replicate k (failedPollEntries s)).flatten = failedPolls (List.replicate k s.chan.rxq.length) := by
  simp [tokens, failedPolls, failedPollEntries, List.map_flatten, List.flatMap_def]

/-- The state after `k` failing polls with a quiet wait each, the slots in `rest` still to come. -/
def afterQuietPolls (k : Nat) (rest : List Slot) (s : State) : State :=
  { s with
    poll := s.poll + BitVec.ofNat 4 k, script := rest, fresh := s.fresh + k,
    trace := s.trace ++ (List.replicate k (failedPollEntries s)).flatten }

theorem afterQuietPolls_zero (s : State) : afterQuietPolls 0 s.script s = s := by
  simp [afterQuietPolls]

theorem afterQuietPolls_succ (k : Nat) (rest mid : List Slot) (s : State) :
    afterQuietPolls k rest (afterQuietPolls 1 mid s) = afterQuietPolls (k + 1) rest s := by
  have hpoll : s.poll + 1#4 + BitVec.ofNat 4 k = s.poll + BitVec.ofNat 4 (k + 1) := by
    rw [BitVec.add_assoc, BitVec.add_comm 1#4, BitVec.ofNat_add]
  have hfresh : s.fresh + 1 + k = s.fresh + (k + 1) := by omega
  simp [afterQuietPolls, failedPollEntries, List.replicate_succ, hpoll, hfresh]

/-- One failing poll and its wait, in which nothing happens. -/
theorem failingPoll_quiet {s : State} {rest : List Slot} (h : s.script = Slot.quiet :: rest) :
    waitYield Config.pollInterval (setPoll (s.poll + 1) (logCount s)) = afterQuietPolls 1 rest s := by
  have hwait := environment_quiet (s := logAct (.yield Config.pollInterval) (setPoll (s.poll + 1) (logCount s))) h
  rw [waitYield, hwait]
  simp [afterQuietPolls, failedPollEntries, serBufferedCount, logAct, logCount, setPoll]

/-- A poll that sees 5 bytes or less is followed by the wait and the next poll (rule R166). -/
theorem pollLoop_of_too_few (k : Nat) {s : State} (h : s.chan.rxq.length ≤ Config.rxThreshold) :
    pollLoop (k + 1) s = pollLoop k (waitYield Config.pollInterval (setPoll (s.poll + 1) (logCount s))) :=
  if_neg (Nat.not_lt.2 h)

/-- With too few bytes buffered and nothing arriving, every poll left fails. -/
theorem pollLoop_quiet (k : Nat) {s : State} {rest : List Slot} (hscript : s.script = List.replicate k Slot.quiet ++ rest)
    (hfew : s.chan.rxq.length ≤ Config.rxThreshold) : pollLoop k s = (false, afterQuietPolls k rest s) := by
  induction k generalizing s with
  | zero => rw [← show s.script = rest from hscript, afterQuietPolls_zero, pollLoop]
  | succ k ih =>
    have hslots : s.script = Slot.quiet :: (List.replicate k Slot.quiet ++ rest) := hscript
    rw [pollLoop_of_too_few k hfew, failingPoll_quiet hslots, ih (s := afterQuietPolls 1 _ s) rfl hfew,
      afterQuietPolls_succ]

/-- Settles O25: ten quiet waits leave the count at which every poll fails. -/
theorem tooFewBytesAreNoResponse : Obligations.TooFewBytesAreNoResponse := by
  intro s rest hscript hfew
  have hread : transportReadResponse s = (false, afterQuietPolls 10 rest (clearRx (setPoll 0 s))) :=
    pollLoop_quiet 10 hscript hfew
  have hexec : exec .tReadResponse s =
      .next (setResult (.gotBytes false) (afterQuietPolls 10 rest (clearRx (setPoll 0 s)))) := by
    rw [exec, execTReadResponse, hread]
  exact ⟨_, _, hexec, rfl, rfl, rfl, rfl, rfl, rfl, tokens_replicate_failedPollEntries 10 s⟩

end Sys2Proof.Machine
end

section
/-! The request frames the codec builds (43_frame_codec.md rules R180 to R185): what stands in TXF, what else is
written, and that each passes validation. -/

namespace Sys2Proof.Machine

open Sys2Proof

theorem exec_buildReadRequest {function : Byte} (hread : function = 3 ∨ function = 4) (unitId : Byte) (addr : Half)
    (s : State) : exec (.buildReadRequest unitId function addr) s = .next (buildRead unitId function addr s) :=
  if_pos ((isReadFunction_iff function).2 hread)

theorem exec_buildReadRequest_refused {function : Byte} (hnot : ¬ (function = 3 ∨ function = 4)) (unitId : Byte)
    (addr : Half) (s : State) : exec (.buildReadRequest unitId function addr) s = .refused .functionNotARead :=
  if_neg (hnot ∘ (isReadFunction_iff function).1)

/-- Building a frame writes TXF, TXF_LEN and CRC_ACC alone. -/
theorem buildFrame_frame (n : Nat) (body : List Byte) (s : State) :
    buildFrame n body s = { s with txf := (buildFrame n body s).txf, txLen := n, crcAcc := checksum body } := rfl

/-- A read request leaves TXF beyond its eight bytes as it was (log entry 4). -/
theorem buildRead_txf_of_le {k : Fin Config.writeReqLen} (hk : 8 ≤ k.val) (unitId function : Byte) (addr : Half)
    (s : State) : (buildRead unitId function addr s).txf[k] = s.txf[k] :=
  loadTxf_keeps (computeChecksum _ s) _ _ k hk

/-- Settles O26: for a read function the frame built is the body of rule R182 with its checksum. -/
theorem buildReadRequestBuildsTheFrame : Obligations.BuildReadRequestBuildsTheFrame := by
  intro id f addr s
  constructor
  · intro hread
    exact ⟨_, exec_buildReadRequest hread id addr s, txFrame_buildRead id f addr s, rfl, rfl,
      fun _ hk => buildRead_txf_of_le hk id f addr s, buildFrame_frame _ _ s⟩
  · intro h3 h4
    exact exec_buildReadRequest_refused (not_or.2 ⟨h3, h4⟩) id addr s

/-- Settles O27: the frame built is the body of rule R185 with its checksum. -/
theorem buildWriteRequestBuildsTheFrame : Obligations.BuildWriteRequestBuildsTheFrame := fun id addr value s =>
  ⟨buildWrite id addr value s, rfl, txFrame_buildWrite id addr value s, rfl, rfl, buildFrame_frame _ _ s⟩

/-- Settles O28: what either operation leaves in TXF is a body with its checksum. -/
theorem builtFramesPassValidation : Obligations.BuiltFramesPassValidation := by
  refine ⟨crcValid_withChecksum, ?_, ?_⟩
  · intro id f addr s t h
    rw [execBuildReadRequest_eq_next h, txFrame_buildRead]
    exact crcValid_withChecksum _
  · intro id addr value s t h
    cases h
    rw [txFrame_buildWrite]
    exact crcValid_withChecksum _

end Sys2Proof.Machine
end

section
/-! DECODE_RESPONSE: its three tests in order, and what it writes (43_frame_codec.md rules R187, R188). -/

namespace Sys2Proof.Machine

open Sys2Proof

section
variable {base : Nat} {bytes : List Byte}

theorem decodeBytes_of_short (hshort : bytes.length < 4) : decodeBytes base bytes = .checksumError := if_pos hshort

theorem decodeBytes_of_not_valid (hvalid : crcValid bytes = false) : decodeBytes base bytes = .checksumError := by
  simp [decodeBytes, hvalid]

variable {function : Byte} (hlen : 4 ≤ bytes.length) (hvalid : crcValid bytes = true)
  (hfunction : bytes[1]? = some function)
include hlen hvalid hfunction

theorem decodeBytes_of_read (hread : function = 3 ∨ function = 4) :
    decodeBytes base bytes = .value (readPayload base bytes) := by
  rw [decodeBytes_of_valid hlen hvalid hfunction, if_pos ((isReadFunction_iff function).2 hread)]

theorem decodeBytes_of_write (hwrite : function = 16) : decodeBytes base bytes = .value Config.writeAckValue := by
  subst hwrite
  exact decodeBytes_of_valid hlen hvalid hfunction

theorem decodeBytes_of_undecodable (hread : ¬ (function = 3 ∨ function = 4)) (hwrite : function ≠ 16) :
    decodeBytes base bytes = .undecodableFunction := by
  rw [decodeBytes_of_valid hlen hvalid hfunction, if_neg (hread ∘ (isReadFunction_iff function).1)]
  exact if_neg hwrite

end

/-- Under four bytes no checksum is computed. -/
theorem decodeAlone_crcAcc_of_short {bytes : List Byte} (hshort : bytes.length < 4) (s : State) :
    (decodeAlone bytes s).crcAcc = s.crcAcc := by
  have hwrites : decodeWrites bytes s = s := if_pos hshort
  rw [decodeAlone_spec, hwrites]

/-- From four bytes on CRC_ACC holds the checksum of all but the last two, whatever the verdict. -/
theorem decodeAlone_crcAcc_of_long {bytes : List Byte} (hlong : 4 ≤ bytes.length) (s : State) :
    (decodeAlone bytes s).crcAcc = checksum (bytes.take (bytes.length - 2)) := by
  have hwrites : decodeWrites bytes s =
      advanceFresh decodeDraws (computeChecksum (bytes.take (bytes.length - 2)) s) := if_neg (Nat.not_lt.2 hlong)
  rw [decodeAlone_spec, hwrites]
  rfl

/-- Settles O29: the tests are the branches of `decodeBytes`, and OUTCOME is written last. -/
theorem decodeResponseTestsInOrder : Obligations.DecodeResponseTestsInOrder := by
  intro bytes s
  refine ⟨decodeAlone bytes s, decodeBytes s.fresh bytes, rfl, rfl,
    fun hshort => ⟨decodeBytes_of_short hshort, decodeAlone_crcAcc_of_short hshort s⟩, fun hlong => ?_,
    holdsOutcome_setOutcome _ (decodeWrites bytes s), decodeAlone_spec bytes s⟩
  refine ⟨decodeAlone_crcAcc_of_long hlong s, decodeBytes_of_not_valid, fun hvalid => ?_⟩
  have hfunction : bytes[1]? = some bytes[1] := List.getElem?_eq_getElem (by omega)
  exact ⟨bytes[1], hfunction, decodeBytes_of_read hlong hvalid hfunction, decodeBytes_of_write hlong hvalid hfunction,
    fun h3 h4 => decodeBytes_of_undecodable hlong hvalid hfunction (not_or.2 ⟨h3, h4⟩)⟩

end Sys2Proof.Machine
end

section
/-! The payload of a read response: its declared bytes shifted into one 32-bit word (43_frame_codec.md rules R189,
R193). -/

namespace Sys2Proof.Machine

open Sys2Proof

/-- One payload byte taken into the value: the value moves up by eight bits and the byte stands at its low end. -/
def shiftIn (w : Word) (b : Byte) : Word := (w <<< 8) ||| b.zeroExtend 32

/-- The value of a payload that lies inside the bytes received is its bytes shifted in, in order. -/
theorem readPayload_eq_foldl_shiftIn (base : Nat) (id f n : Byte) {data : List Byte} (hdata : n.toNat ≤ data.length) :
    readPayload base (id :: f :: n :: data) = (data.take n.toNat).foldl shiftIn 0 := by
  have hbytes : (List.range n.toNat).map (fun k => byteAt base (id :: f :: n :: data) (3 + k)) = data.take n.toNat := by
    apply List.ext_getElem
    · simp [hdata]
    · intro k hk _
      have hlt : k < data.length := by simp at hk; omega
      have hindex : 3 + k = k + 1 + 1 + 1 := by omega
      simp [byteAt, hindex, hlt]
  rw [← hbytes, List.foldl_map]
  rfl

/-- Where exactly the declared bytes stand after the count, nothing behind them is read. -/
theorem readPayload_append (base : Nat) (id f : Byte) {n : Byte} {payload : List Byte} (hn : payload.length = n.toNat)
    (rest : List Byte) : readPayload base (id :: f :: n :: (payload ++ rest)) = payload.foldl shiftIn 0 := by
  rw [readPayload_eq_foldl_shiftIn _ _ _ _ (by simp [hn]), List.take_left' hn]

theorem toNat_shiftIn (w : Word) (b : Byte) : (shiftIn w b).toNat = 256 * (w.toNat % 2 ^ 24) + b.toNat := by
  have hshift : w.toNat <<< 8 % 2 ^ 32 = 2 ^ 8 * (w.toNat % 2 ^ 24) := by rw [Nat.shiftLeft_eq]; omega
  have hbyte : (b.zeroExtend 32).toNat = b.toNat := BitVec.toNat_setWidth_of_le (by decide)
  rw [shiftIn, BitVec.toNat_or, BitVec.toNat_shiftLeft, hshift, hbyte, ← Nat.two_pow_add_eq_or_of_lt b.isLt]

theorem toNat_append_byte {n : Nat} (x : BitVec n) (b : Byte) : (x ++ b).toNat = 256 * x.toNat + b.toNat := by
  rw [BitVec.toNat_append, ← Nat.shiftLeft_add_eq_or_of_lt b.isLt, Nat.shiftLeft_eq, Nat.mul_comm]

/-- Four bytes shifted in drive out whatever stood in the word before. -/
theorem foldl_shiftIn_four_bytes (w : Word) (b0 b1 b2 b3 : Byte) :
    [b0, b1, b2, b3].foldl shiftIn w = b0 ++ b1 ++ b2 ++ b3 := by
  apply BitVec.eq_of_toNat_eq
  simp only [List.foldl_cons, List.foldl_nil, toNat_shiftIn, toNat_append_byte]
  omega

/-- Settles O31: the last four of the bytes shifted in are all that remain. -/
theorem longPayloadsKeepTheLastFourBytes : Obligations.LongPayloadsKeepTheLastFourBytes := by
  intro base id f n b0 b1 b2 b3 front rest hn
  have hlen : (front ++ [b0, b1, b2, b3]).length = n.toNat := by simp [hn]
  rw [readPayload_append base id f hlen, List.foldl_append, foldl_shiftIn_four_bytes]

/-- Settles O30: up to four bytes shifted into 0 lose no bit. -/
theorem shortPayloadsAreZeroExtended : Obligations.ShortPayloadsAreZeroExtended := by
  intro base id f b0 b1 b2 b3 rest
  have hzero : (0 : Word).toNat = 0 := rfl
  refine ⟨readPayload_append base id f (n := 0) (payload := []) rfl rest, ?_, ?_, ?_, ?_⟩
  · have h : readPayload base (id :: f :: 1 :: b0 :: rest) = shiftIn 0 b0 :=
      readPayload_append base id f (n := 1) (payload := [b0]) rfl rest
    rw [h, toNat_shiftIn, hzero]
    omega
  · have h : readPayload base (id :: f :: 2 :: b0 :: b1 :: rest) = shiftIn (shiftIn 0 b0) b1 :=
      readPayload_append base id f (n := 2) (payload := [b0, b1]) rfl rest
    rw [h, toNat_shiftIn, toNat_shiftIn, hzero]
    omega
  · have h : readPayload base (id :: f :: 3 :: b0 :: b1 :: b2 :: rest) = shiftIn (shiftIn (shiftIn 0 b0) b1) b2 :=
      readPayload_append base id f (n := 3) (payload := [b0, b1, b2]) rfl rest
    rw [h, toNat_shiftIn, toNat_shiftIn, toNat_shiftIn, hzero]
    omega
  · exact (readPayload_append base id f (n := 4) (payload := [b0, b1, b2, b3]) rfl rest).trans
      (foldl_shiftIn_four_bytes 0 b0 b1 b2 b3)

end Sys2Proof.Machine
end

section
/-! What a frame with its own checksum decodes to, and which of its fields matter (43_frame_codec.md rules R188 to R194,
70_reset_and_hazards.md rule R314). -/

namespace Sys2Proof.Machine

open Sys2Proof

/-- The payload read from a frame with its checksum, where the declared bytes lie ahead of that checksum. -/
theorem readPayload_withChecksum (base : Nat) (id f n : Byte) {data : List Byte} (hdata : n.toNat ≤ data.length) :
    readPayload base (withChecksum (id :: f :: n :: data)) = (data.take n.toNat).foldl shiftIn 0 := by
  rw [withChecksum, List.cons_append, List.cons_append, List.cons_append,
    readPayload_eq_foldl_shiftIn base id f n (hdata.trans (by simp)), List.take_append_of_le_length hdata]

/-- A frame with its checksum is told by its function byte; nothing else of it but the payload plays a part. -/
theorem decodeBytes_withChecksum (base : Nat) (id f : Byte) (rest : List Byte) :
    decodeBytes base (withChecksum (id :: f :: rest)) =
      if isReadFunction f then .value (readPayload base (withChecksum (id :: f :: rest)))
      else if f = Config.fcWrite then .value Config.writeAckValue else .undecodableFunction :=
  decodeBytes_of_valid (by simp) (crcValid_withChecksum _) rfl

/-- Settles O32: neither the function byte nor the payload reads the unit id. -/
theorem uncheckedFieldsDoNotMatter : Obligations.UncheckedFieldsDoNotMatter := by
  refine ⟨fun base id id' f n data hdata => ?_, fun _ _ _ hvalid hlen => ?_⟩
  · rw [decodeBytes_withChecksum, decodeBytes_withChecksum, readPayload_withChecksum _ _ _ _ hdata,
      readPayload_withChecksum _ _ _ _ hdata]
  · exact decodeBytes_of_write (by rw [List.length_cons, List.length_cons]; omega) hvalid rfl rfl

theorem hi8_eq_zero_of_lt {a : Half} (h : a.toNat < 256) : hi8 a = 0 := by
  apply BitVec.eq_of_toNat_eq
  simp [hi8, Nat.shiftRight_eq_div_pow, Nat.div_eq_of_lt h]

/-- Settles O33: in the echo of a read the high address byte stands where a response declares its count; the echo of a
write is an acknowledgment. -/
theorem echoedRequestsDecodeAsValues : Obligations.EchoedRequestsDecodeAsValues := by
  intro base id f addr value
  refine ⟨fun hread haddr => ?_, decodeBytes_withChecksum base id 16 _⟩
  have hpayload : readPayload base (withChecksum (readRequestBody id f addr)) = 0 := by
    rw [readRequestBody, hi8_eq_zero_of_lt haddr]
    exact readPayload_withChecksum base id f 0 (Nat.zero_le _)
  rw [decodeBytes_of_read (by simp) (crcValid_withChecksum _) rfl hread, hpayload]

end Sys2Proof.Machine
end

section
/-! The guard time (44_transaction_manager.md rules R211 to R213): 40 bit times in whole microseconds. -/

namespace Sys2Proof.Machine

open Sys2Proof

/-- The quotient of rule R212, rounded down. -/
theorem toNat_guardTimeOf {baud : Word} (hbaud : baud ≠ 0) (n : Nat) :
    (guardTimeOf n baud).toNat = 40000000 / baud.toNat := by
  rw [guardTimeOf, if_neg hbaud]
  exact BitVec.toNat_udiv

/-- What GUARD_TIME leaves in GUARD_US, where the rate is not 0. -/
theorem toNat_computeGuardTime_guardUs {s : State} (hbaud : s.cfg.baud ≠ 0) :
    (computeGuardTime s).guardUs.toNat = 40000000 / s.cfg.baud.toNat :=
  toNat_guardTimeOf hbaud s.fresh

/-- Settles O44: GUARD_TIME is `computeGuardTime`, which writes the quotient. -/
theorem guardTimeIsFortyBitTimes : Obligations.GuardTimeIsFortyBitTimes := fun s =>
  ⟨computeGuardTime s, rfl, toNat_computeGuardTime_guardUs, rfl⟩

/-- Settles O45: the quotient falls as the rate rises, so that 4800 baud bounds it, and it is 0 once the divisor is the
larger. -/
theorem guardTimeOfALegalRateIsBounded : Obligations.GuardTimeOfALegalRateIsBounded := by
  intro s hlegal
  have hrate : 4800 ≤ s.cfg.baud.toNat := hlegal
  have hbaud : s.cfg.baud ≠ 0 := fun hzero => by simp [hzero] at hrate
  have hguard := toNat_computeGuardTime_guardUs hbaud
  refine ⟨computeGuardTime s, rfl, ?_, ?_⟩
  · calc (computeGuardTime s).guardUs.toNat = 40000000 / s.cfg.baud.toNat := hguard
      _ ≤ 40000000 / 4800 := Nat.div_le_div_left hrate (by decide)
  · have hzero : (computeGuardTime s).guardUs = 0 ↔ 40000000 / s.cfg.baud.toNat = 0 := by
      rw [← hguard]; exact BitVec.toNat_inj.symm
    rw [hzero, Nat.div_eq_zero_iff]
    omega

end Sys2Proof.Machine
end

section
/-! A REQUEST for an unsupported function (44_transaction_manager.md rule R218, 30_encoding.md rule R105; log entry 8). -/

namespace Sys2Proof.Machine

open Sys2Proof

/-- What is left of REQUEST where the function is no read: the two operands written on acceptance, and the end. -/
theorem requestBody_of_unsupported {function : Byte} (h3 : function ≠ 3) (h4 : function ≠ 4) (unitId : Byte) (addr : Half)
    (s : State) : requestBody unitId function addr s =
      finish .unsupportedFunction (setReq { s.req with unitId := unitId, addr := addr } s) :=
  if_neg (not_or.2 ⟨h3, h4⟩ ∘ (isReadFunction_iff function).1)

/-- Settles O46: REQUEST is accepted and ends at once, with the environment's slot before its END. -/
theorem unsupportedFunctionFailsAtOnce : Obligations.UnsupportedFunctionFailsAtOnce := by
  intro id f addr s hbusy hready h3 h4
  have hexec : exec (.request id f addr) s =
      .next (finish .unsupportedFunction (setReq { s.req with unitId := id, addr := addr } (accept s))) :=
    (whenInitialised_of_ready _ hbusy hready).trans (congrArg _ (requestBody_of_unsupported h3 h4 id addr (accept s)))
  refine ⟨_, hexec, rfl, environment_acted (setReq _ (accept s)), fun rest hscript => ?_, ?_⟩
  · exact environment_chan_quiet (s := setReq _ (accept s)) hscript
  · exact State.eq_of_fields rfl rfl rfl hbusy.symm rfl rfl rfl rfl rfl rfl rfl rfl rfl rfl rfl rfl rfl rfl rfl rfl rfl rfl
      rfl rfl rfl

end Sys2Proof.Machine
end

section
/-! What an exchange leaves in the registers (44_transaction_manager.md rules R215, R217, R221, R222, R225, R229,
60_exceptions.md rule R281). -/

namespace Sys2Proof.Machine

open Sys2Proof

/-! ### TRANSACT (rules R215, R217) -/

/-- From attempt 1 on the attempts are numbered as they are made, and there are at most three. -/
theorem Transacted.attempts {p t : State} {o : ResponseOutcome} {atts : List AttemptRecord} {new : List TraceEntry}
    (h : Transacted Config.maxAttempts (setAttempt 1 p) o t atts new) : t.attempt.toNat = atts.length ∧ atts.length ≤ 3 := by
  have hsum : t.attempt.toNat + 1 = 1 + atts.length := h.attempt
  exact ⟨by omega, h.bounded⟩

/-- What TRANSACT from `p` leaves in `t` with outcome `o`: the bounds of its counters, the line in transmit mode exactly
after a value, and what it does not write. -/
structure Concluded (p t : State) (o : ResponseOutcome) : Prop where
  kind : o ≠ .unsupportedFunction
  txMode : t.txMode = isValue o
  someAttempt : 1 ≤ t.attempt.toNat
  attemptBound : t.attempt.toNat ≤ 3
  exhausted : o = .checksumError → t.attempt = 3
  poll : t.poll.toNat ≤ 10
  rxLen : t.rxLen ≤ 16
  untouched : Untouched p t

theorem runTransact_concluded (p : State) : Concluded p (runTransact p).2 (runTransact p).1 := by
  obtain ⟨atts, new, ht⟩ := runTransact_spec p
  obtain ⟨hcount, hmost⟩ := ht.attempts
  have hthree : (runTransact p).1 = .checksumError → (runTransact p).2.attempt = 3 := fun ho =>
    BitVec.eq_of_toNat_eq (hcount.trans (ht.exhausted ho))
  exact ⟨ht.kind, ht.txMode, hcount ▸ ht.nonempty, hcount ▸ hmost, hthree, ht.poll, ht.rxLen, { ht.untouched with }⟩

/-- Settles O49: TRANSACT hands back the outcome of `runTransact`, and `Untouched` is all that it may not write. -/
theorem transactAlwaysEndsWithAnOutcome : Obligations.TransactAlwaysEndsWithAnOutcome := by
  intro s
  have hexec : exec .transact s = .next (setResult (.outcome (runTransact s).1) (runTransact s).2) := rfl
  have h := runTransact_concluded s
  rw [hexec]
  generalize runTransact s = r at h ⊢
  have hkept := h.untouched
  refine ⟨_, r.1, rfl, rfl, h.kind, h.txMode, h.someAttempt, h.attemptBound, h.exhausted, h.poll, h.rxLen,
    hkept.settings, ?_⟩
  exact State.eq_of_fields hkept.cfg hkept.initialised rfl hkept.busy rfl rfl rfl hkept.req hkept.outTag hkept.outValue
    hkept.rspValid hkept.txf hkept.txLen rfl rfl rfl hkept.guardUs rfl rfl hkept.inputs rfl rfl rfl rfl rfl

/-! ### REQUEST and SET (rules R221, R222, R225) -/

/-- The outcome held is the one OUTCOME shows. -/
theorem outcomeOf_eq_of_holdsOutcome {t : State} {o : ResponseOutcome} (h : holdsOutcome t o) : outcomeOf t = o := by
  obtain ⟨htag, hvalue⟩ := h
  cases o with
  | value v => simp [outcomeOf, htag, tagOf, hvalue v rfl]
  | noResponse | checksumError | unsupportedFunction | undecodableFunction => simp [outcomeOf, htag, tagOf]

/-- A transaction completes with the outcome of its TRANSACT. -/
theorem runTransaction_completed_outcome (p : State) : Completed p (runTransaction p) (runTransact p).1 := by
  obtain ⟨o, h⟩ := runTransaction_completed p
  have hfinish : holdsOutcome (runTransaction p) (runTransact p).1 := by
    rw [runTransaction_eq]
    generalize runTransact p = r
    exact holdsOutcome_setOutcome r.1 (environment r.2)
  have ho : o = (runTransact p).1 :=
    (outcomeOf_eq_of_holdsOutcome h.outcome).symm.trans (outcomeOf_eq_of_holdsOutcome hfinish)
  exact ho ▸ h

/-- What a transaction from the prepared state `p` leaves in `t` besides what `Completed` says. -/
structure CompletedRegisters (p t : State) (o : ResponseOutcome) : Prop where
  exhausted : o = .checksumError → t.attempt = 3
  poll : t.poll.toNat ≤ 10
  rxLen : t.rxLen ≤ 16
  req : t.req = p.req
  txf : t.txf = p.txf
  guardUs : t.guardUs = p.guardUs

theorem runTransaction_registers (p : State) : CompletedRegisters p (runTransaction p) (runTransact p).1 := by
  have h := runTransact_concluded p
  rw [runTransaction_eq]
  generalize runTransact p = r at h ⊢
  exact ⟨h.exhausted, h.poll, h.rxLen, h.untouched.req, h.untouched.txf, h.untouched.guardUs⟩

/-- From a state prepared for `s`, such a transaction writes no more than these registers of `s`. -/
theorem Completed.frame_eq {frame : List Byte} {s p t : State} {o : ResponseOutcome} (h : Completed p t o)
    (hprepared : Prepared frame s p) (hbusy : s.busy = false) : t = { s with
      txMode := t.txMode, seq := t.seq, attempt := t.attempt, poll := t.poll, req := t.req, outTag := t.outTag,
      outValue := t.outValue, rspValid := t.rspValid, txf := t.txf, txLen := t.txLen, rxb := t.rxb, rxLen := t.rxLen,
      crcAcc := t.crcAcc, guardUs := t.guardUs, chan := t.chan, gpio := t.gpio, script := t.script, fresh := t.fresh,
      trace := t.trace, seqLog := t.seqLog } :=
  State.eq_of_fields (h.cfg.trans hprepared.cfg) (h.initialised.trans hprepared.initialised) rfl (h.busy.trans hbusy.symm)
    rfl rfl rfl rfl rfl rfl rfl rfl rfl rfl rfl rfl rfl rfl rfl (h.inputs.trans hprepared.inputs) rfl rfl
    (h.result.trans hprepared.result) rfl rfl

theorem Completed.settings_eq {frame : List Byte} {s p t : State} {o : ResponseOutcome} (h : Completed p t o)
    (hprepared : Prepared frame s p) : t.chan.settings = s.chan.settings := by
  rw [h.settings, hprepared.chan]

/-- REQUEST leaves the places of TXF beyond its frame alone (log entry 4). -/
theorem prepareRead_txf_of_le {k : Fin Config.writeReqLen} (hk : 8 ≤ k.val) (unitId function : Byte) (addr : Half)
    (s : State) : (prepareRead unitId function addr s).txf[k] = s.txf[k] := by
  rw [prepareRead]
  exact buildRead_txf_of_le hk _ _ _ _

/-- Settles O47: the transaction from the state REQUEST prepares. -/
theorem requestAlwaysEndsWithAnOutcome : Obligations.RequestAlwaysEndsWithAnOutcome := by
  intro id f addr s hbusy hready hread
  have hprepared := prepareRead_prepared id addr s hread
  have hcompleted := runTransaction_completed_outcome (prepareRead id f addr (accept s))
  have hregisters := runTransaction_registers (prepareRead id f addr (accept s))
  refine ⟨_, _, (prepares_request id addr hread).exec_eq s hbusy hready, hcompleted.outcome, hcompleted.kind,
    hcompleted.rspValid, hcompleted.seq, hcompleted.txMode, hregisters.req,
    hcompleted.txLen.trans hprepared.txLen, hcompleted.frame.trans hprepared.txFrame, fun k hk => ?_, fun hbaud => ?_,
    hcompleted.attempts.1, hcompleted.attempts.2, hregisters.exhausted, hregisters.poll, hregisters.rxLen,
    hcompleted.settings_eq hprepared, hcompleted.frame_eq hprepared hbusy⟩
  · rw [hregisters.txf, prepareRead_txf_of_le hk, accept_txf]
  · rw [hregisters.guardUs]
    exact toNat_guardTimeOf hbaud s.fresh

/-- Settles O48: the transaction from the state SET prepares. -/
theorem setAlwaysEndsWithAnOutcome : Obligations.SetAlwaysEndsWithAnOutcome := by
  intro id addr value s hbusy hready
  have hprepared := prepareWrite_prepared id addr value s
  have hcompleted := runTransaction_completed_outcome (prepareWrite id addr value (accept s))
  have hregisters := runTransaction_registers (prepareWrite id addr value (accept s))
  refine ⟨_, _, (prepares_set id addr value).exec_eq s hbusy hready, hcompleted.outcome, hcompleted.kind,
    hcompleted.rspValid, hcompleted.seq, hcompleted.txMode, hregisters.req,
    hcompleted.txLen.trans hprepared.txLen, hcompleted.frame.trans hprepared.txFrame, fun hbaud => ?_,
    hcompleted.attempts.1, hcompleted.attempts.2, hregisters.exhausted, hregisters.poll, hregisters.rxLen,
    hcompleted.settings_eq hprepared, hcompleted.frame_eq hprepared hbusy⟩
  rw [hregisters.guardUs]
  exact toNat_guardTimeOf hbaud s.fresh

end Sys2Proof.Machine
end

section
/-! Every exchange is TRANSACT from a begun state and its conclusion (44_transaction_manager.md rules R215, R221, R222, R225):
what an exchange shows to the environment is what TRANSACT shows, and the END of a host command. -/

namespace Sys2Proof.Machine

open Sys2Proof

/-! ### The conclusion (rules R217, R221; log entry 9) -/

/-- How an exchange concludes whose TRANSACT answered `r`: TRANSACT alone hands the outcome back, a host command brings SEQ
back to Idle and finishes. -/
def conclude (i : Instr) (r : ResponseOutcome × State) : State :=
  if i = .transact then setResult (.outcome r.1) r.2 else finish r.1 (setSeq .idle r.2)

theorem conclude_transact (r : ResponseOutcome × State) : conclude .transact r = setResult (.outcome r.1) r.2 := if_pos rfl

theorem conclude_of_ne {i : Instr} (hi : i ≠ .transact) (r : ResponseOutcome × State) :
    conclude i r = finish r.1 (setSeq .idle r.2) := if_neg hi

/-- The END of a host command as the trace keeps it. -/
def concludeEntries (i : Instr) (r : ResponseOutcome × State) : List TraceEntry :=
  if i = .transact then [] else [⟨.finished r.1, .idle, r.2.txMode, r.2.attempt⟩]

section
variable (i : Instr) (r : ResponseOutcome × State)

/-- A field that neither a result handed back nor `finish` writes is TRANSACT's last word. -/
theorem conclude_kept {α : Type} (field : State → α) (hresult : ∀ x u, field (setResult x u) = field u)
    (hfinish : ∀ o u, field (finish o (setSeq .idle u)) = field u) : field (conclude i r) = field r.2 := by
  unfold conclude
  split
  · exact hresult _ _
  · exact hfinish _ _

@[simp] theorem conclude_cfg : (conclude i r).cfg = r.2.cfg := conclude_kept i r State.cfg (fun _ _ => rfl) fun _ _ => rfl
@[simp] theorem conclude_txMode : (conclude i r).txMode = r.2.txMode :=
  conclude_kept i r State.txMode (fun _ _ => rfl) fun _ _ => rfl
@[simp] theorem conclude_attempt : (conclude i r).attempt = r.2.attempt :=
  conclude_kept i r State.attempt (fun _ _ => rfl) fun _ _ => rfl
@[simp] theorem conclude_poll : (conclude i r).poll = r.2.poll :=
  conclude_kept i r State.poll (fun _ _ => rfl) fun _ _ => rfl
@[simp] theorem conclude_rxb : (conclude i r).rxb = r.2.rxb :=
  conclude_kept i r State.rxb (fun _ _ => rfl) fun _ _ => rfl
@[simp] theorem conclude_rxLen : (conclude i r).rxLen = r.2.rxLen :=
  conclude_kept i r State.rxLen (fun _ _ => rfl) fun _ _ => rfl
@[simp] theorem conclude_crcAcc : (conclude i r).crcAcc = r.2.crcAcc :=
  conclude_kept i r State.crcAcc (fun _ _ => rfl) fun _ _ => rfl
@[simp] theorem conclude_guardUs : (conclude i r).guardUs = r.2.guardUs :=
  conclude_kept i r State.guardUs (fun _ _ => rfl) fun _ _ => rfl
@[simp] theorem conclude_gpio : (conclude i r).gpio = r.2.gpio :=
  conclude_kept i r State.gpio (fun _ _ => rfl) fun _ _ => rfl
@[simp] theorem written_conclude : written (conclude i r).chan = written r.2.chan :=
  conclude_kept i r (fun u => written u.chan) (fun _ _ => rfl) fun _ u => environment_written (setSeq .idle u)

theorem conclude_trace : (conclude i r).trace = r.2.trace ++ concludeEntries i r := by
  unfold conclude concludeEntries
  split <;> simp

theorem tokens_concludeEntries : tokens (concludeEntries i r) = endTokens i r.1 := by
  unfold concludeEntries endTokens
  split <;> rfl

theorem reports_conclude : Reports i (conclude i r) r.1 := by
  unfold Reports
  split
  case isTrue hi => subst hi; rw [conclude_transact, setResult_result]
  case isFalse hi => rw [conclude_of_ne hi]; exact holdsOutcome_setOutcome r.1 (environment (setSeq .idle r.2))

end

/-! ### The beginning (rules R215, R222, R225) -/

/-- TRANSACT in an exchange from `s` begins in `p`, with the frame in TXF and nothing done yet to line, channel or SEQ. -/
structure Begun (frame : List Byte) (s p : State) : Prop where
  txFrame : txFrame p = frame
  cfg : p.cfg = s.cfg
  chan : p.chan = s.chan
  gpio : p.gpio = s.gpio
  script : p.script = s.script
  trace : p.trace = s.trace
  seqLog : p.seqLog = s.seqLog

theorem begun_self (s : State) : Begun (txFrame s) s s := by constructor <;> rfl

theorem prepareRead_begun (unitId : Byte) {function : Byte} (addr : Half) (s : State) (hread : function = 3 ∨ function = 4) :
    Begun (withChecksum (readRequestBody unitId function addr)) s (prepareRead unitId function addr (accept s)) := by
  have hprepared := prepareRead_prepared unitId addr s hread
  refine ⟨hprepared.txFrame, hprepared.cfg, hprepared.chan, ?_, ?_, ?_, ?_⟩ <;> rw [prepareRead_spec _ _ _ _ hread] <;> rfl

theorem prepareWrite_begun (unitId : Byte) (addr value : Half) (s : State) :
    Begun (withChecksum (writeRequestBody unitId addr value)) s (prepareWrite unitId addr value (accept s)) := by
  have hprepared := prepareWrite_prepared unitId addr value s
  exact ⟨hprepared.txFrame, hprepared.cfg, hprepared.chan, rfl, rfl, rfl, rfl⟩

/-- Every exchange begins, runs TRANSACT and concludes. -/
theorem Exchanging.concludes {i : Instr} {s : State} {frame : List Byte} (h : Exchanging i s frame) :
    ∃ p, Begun frame s p ∧ exec i s = .next (conclude i (runTransact p)) := by
  by_cases hi : i = .transact
  · subst hi
    cases h
    exact ⟨s, begun_self s, congrArg Host.Outcome.next (conclude_transact (runTransact s)).symm⟩
  · obtain ⟨j, -, hexec, hbusy, hready, hkind⟩ := exchanging_command h hi
    have hconclude : ∀ p, runTransaction p = conclude i (runTransact p) := fun p => (conclude_of_ne hi (runTransact p)).symm
    obtain ⟨unitId, function, addr, hread, rfl, rfl⟩ | ⟨unitId, addr, value, rfl, rfl⟩ := hkind
    · refine ⟨_, prepareRead_begun unitId addr s hread, ?_⟩
      rw [hexec, (prepares_request unitId addr hread).exec_eq s hbusy hready, hconclude]
    · refine ⟨_, prepareWrite_begun unitId addr value s, ?_⟩
      rw [hexec, (prepares_set unitId addr value).exec_eq s hbusy hready, hconclude]

/-! ### The exchange (rule R217) -/

/-- What an exchange from `s` does: TRANSACT, whose attempts are `atts` and whose actions are `new`, answers `r`. -/
structure Exchanged (i : Instr) (s : State) (frame : List Byte) (r : ResponseOutcome × State) (atts : List AttemptRecord)
    (new : List TraceEntry) : Prop where
  exec_eq : exec i s = .next (conclude i r)
  trace : (conclude i r).trace = s.trace ++ (new ++ concludeEntries i r)
  tokens : tokens new = (atts.map (attemptTokens r.2.guardUs frame)).flatten ++ if isValue r.1 then [.line true] else []
  attempt : r.2.attempt.toNat = atts.length
  bounded : atts.length ≤ Config.maxAttempts
  legal : ∀ a ∈ atts, legalAttempt a
  nonempty : 1 ≤ atts.length
  earlier : ∀ a ∈ atts.dropLast, explains .checksumError a
  last : ∃ a, atts.getLast? = some a ∧ explains r.1 a ∧ leavesResponse a r.2
  exhausted : r.1 = .checksumError → atts.length = Config.maxAttempts
  txMode : r.2.txMode = isValue r.1
  written : written r.2.chan = written s.chan ++ (List.replicate atts.length frame).flatten
  cfg : r.2.cfg = s.cfg
  pins : pinLevel r.2.gpio s.cfg.pinDe.toNat = some r.2.txMode ∧ pinLevel r.2.gpio s.cfg.pinRe.toNat = some r.2.txMode
  others : otherPinsKept s r.2
  path : ∃ path, r.2.seqLog = s.seqLog ++ path ∧ path.getLast? = some r.2.seq ∧ seqEdge r.2.seq .idle = true ∧
    ∀ q, seqEdge q .transmitting = true → SeqPath (q :: path)

/-- What `Transacted` says of the state begun, said of the state the exchange comes from. -/
theorem Exchanging.exchanged {i : Instr} {s : State} {frame : List Byte} (h : Exchanging i s frame) :
    ∃ r atts new, Exchanged i s frame r atts new := by
  obtain ⟨p, hbegun, hexec⟩ := h.concludes
  obtain ⟨atts, new, ht⟩ := runTransact_spec p
  generalize runTransact p = r at hexec ht
  have hframe : txFrame (setAttempt 1 p) = frame := hbegun.txFrame
  have hguard : (setAttempt 1 p).guardUs = r.2.guardUs := ht.untouched.guardUs.symm
  exact ⟨r, atts, new, {
    exec_eq := hexec
    trace := by rw [conclude_trace, ht.trace, setAttempt_trace, hbegun.trace, List.append_assoc]
    tokens := by rw [ht.tokens, hframe, hguard]
    attempt := ht.attempts.1
    bounded := ht.bounded
    legal := ht.legal
    nonempty := ht.nonempty
    earlier := ht.earlier
    last := ht.last
    exhausted := ht.exhausted
    txMode := ht.txMode
    written := by rw [ht.written, hframe, setAttempt_chan, hbegun.chan]
    cfg := ht.untouched.cfg.trans hbegun.cfg
    pins := hbegun.cfg ▸ ht.pins
    others := fun pin hDe hRe => by
      rw [ht.others pin (hbegun.cfg ▸ hDe) (hbegun.cfg ▸ hRe), setAttempt_gpio, hbegun.gpio]
    path := by simpa only [setAttempt_seqLog, hbegun.seqLog] using ht.path }⟩

/-- Settles O50: the attempts of `Exchanged` are those of the trace, and what ends the exchange keeps what the last read
left. -/
theorem exchangeActsAsTheRulesOrder : Obligations.ExchangeActsAsTheRulesOrder := by
  intro i s frame h
  obtain ⟨r, atts, new, hx⟩ := h.exchanged
  obtain ⟨a, hlast, hexplains, hleaves⟩ := hx.last
  refine ⟨conclude i r, r.1, _, tokens new, hx.exec_eq, reports_conclude i r, hx.trace, ?_, atts, ?_, hx.nonempty, hx.bounded,
    hx.legal, hx.earlier, ⟨a, hlast, hexplains, ?_⟩, hx.exhausted, ?_⟩
  · rw [tokens_append, tokens_concludeEntries]
  · rw [conclude_attempt, hx.attempt]
  · exact leavesResponse_congr hleaves (conclude_rxb i r) (conclude_rxLen i r) (conclude_crcAcc i r)
  · rw [conclude_guardUs, hx.tokens]

/-- Settles O53: the last switch of the line left both pins at the line mode, and no conclusion touches a pin. -/
theorem exchangeLeavesThePinsAtTheLineMode : Obligations.ExchangeLeavesThePinsAtTheLineMode := by
  intro i s frame h
  obtain ⟨r, atts, new, hx⟩ := h.exchanged
  refine ⟨conclude i r, r.1, hx.exec_eq, reports_conclude i r, (conclude_txMode i r).trans hx.txMode, ?_, ?_⟩
  · simpa only [pinsFollowLine, conclude_gpio, conclude_txMode, conclude_cfg, hx.cfg] using hx.pins
  · simpa only [otherPinsKept, conclude_gpio] using hx.others

/-! ### The frames handed to the channel (20_memory.md rules R65, R70) -/

/-- Polling hands nothing to the channel. -/
theorem countP_isTx_failedPolls (counts : List Nat) : (failedPolls counts).countP isTx = 0 := by
  induction counts with
  | nil => rfl
  | cons c counts ih => exact ih

/-- An attempt hands one frame to the channel, in its transmit step. -/
theorem countP_isTx_attemptTokens (guardUs : Word) (frame : List Byte) (a : AttemptRecord) :
    (attemptTokens guardUs frame a).countP isTx = 1 := by
  have htransmit : (transmitTokens guardUs frame).countP isTx = 1 := rfl
  obtain ⟨counts, _ | ⟨c, got⟩⟩ := a <;>
    simp [attemptTokens, answerTokens, htransmit, countP_isTx_failedPolls, isTx]

theorem Exchanged.framesSent {i : Instr} {s : State} {frame : List Byte} {r : ResponseOutcome × State}
    {atts : List AttemptRecord} {new : List TraceEntry} (h : Exchanged i s frame r atts new) :
    framesSent (new ++ concludeEntries i r) = atts.length := by
  have hlast : (if isValue r.1 then [Token.line true] else []).countP isTx = 0 := by split <;> rfl
  have hend : (endTokens i r.1).countP isTx = 0 := by unfold endTokens; split <;> rfl
  rw [Machine.framesSent, tokens_append, tokens_concludeEntries, h.tokens, List.countP_append, List.countP_append, hlast, hend,
    List.countP_flatten]
  simp [Function.comp_def, countP_isTx_attemptTokens]

/-- Settles O52: one frame per attempt in the trace, and what each handed over is on the line or pending. -/
theorem exchangeSendsTheSameFrameOncePerAttempt : Obligations.ExchangeSendsTheSameFrameOncePerAttempt := by
  intro i s frame h
  obtain ⟨r, atts, new, hx⟩ := h.exchanged
  refine ⟨conclude i r, _, hx.exec_eq, hx.trace, ?_, ?_⟩
  · rw [hx.framesSent, conclude_attempt, hx.attempt]
  · rw [written_conclude, hx.written, conclude_attempt, hx.attempt]

/-! ### The sequencer (rule R226) -/

/-- Settles O54: TRANSACT's path leads from Idle to a state the table leaves for Idle, and a host command takes that last
transition. -/
theorem sequencerFollowsItsTable : Obligations.SequencerFollowsItsTable := by
  intro i s frame h _
  obtain ⟨r, atts, new, hx⟩ := h.exchanged
  obtain ⟨path, hlog, hlast, hedge, hpath⟩ := hx.path
  by_cases hi : i = .transact
  · refine ⟨conclude i r, path, hx.exec_eq, ?_⟩
    subst hi
    rw [conclude_transact]
    exact ⟨hlog, hpath .idle rfl, hlast, fun hne => absurd rfl hne, fun _ => hedge⟩
  · refine ⟨conclude i r, path ++ [.idle], hx.exec_eq, ?_⟩
    have hback : SeqPath (.idle :: (path ++ [.idle])) := by
      have hfrom : SeqPath (.idle :: path) := hpath .idle rfl
      refine List.IsChain.append hfrom (.singleton _) ?_
      simpa [List.getLast?_cons, hlast] using hedge
    rw [conclude_of_ne hi]
    refine ⟨?_, hback, by simp, fun _ => by simp, fun hc => absurd hc hi⟩
    rw [finish_seqLog, setSeq_seqLog, hlog, List.append_assoc]

/-! ### The waits (rule R228; log entries 5 and 13) -/

/-- The worst case of one attempt: two guard waits, a completion wait, a full response wait and a read time-out. -/
def worstAttemptWait (guardUs : Word) : Nat :=
  2 * guardUs.toNat + Config.txDoneWait + Config.pollCount * Config.pollInterval * Config.tUnit + Config.readTimeout

theorem worstCaseWait_eq (guardUs : Word) : worstCaseWait guardUs = Config.maxAttempts * worstAttemptWait guardUs := rfl

theorem transmitTokens_wait (guardUs : Word) (frame : List Byte) :
    ((transmitTokens guardUs frame).map waitBound).sum = 2 * guardUs.toNat + Config.txDoneWait := by
  simp only [transmitTokens, List.map_cons, List.map_nil, List.sum_cons, List.sum_nil, waitBound]
  omega

/-- No response wait has more than ten failing polls. -/
theorem legalAttempt.counts_length {a : AttemptRecord} (h : legalAttempt a) : a.counts.length ≤ Config.pollCount := by
  obtain ⟨counts, _ | ⟨c, got⟩⟩ := a
  · exact Nat.le_of_eq h.2
  · obtain ⟨-, hfewer, -⟩ := h
    exact Nat.le_of_lt hfewer

/-- After its failing polls an attempt waits for one read at most. -/
theorem answerTokens_wait_le (a : AttemptRecord) :
    ((answerTokens a).map waitBound).sum ≤ ((failedPolls a.counts).map waitBound).sum + Config.readTimeout := by
  obtain ⟨counts, _ | ⟨c, got⟩⟩ := a <;> simp [answerTokens, waitBound]

theorem answerTokens_wait {a : AttemptRecord} (h : legalAttempt a) :
    ((answerTokens a).map waitBound).sum ≤ Config.pollCount * Config.pollInterval * Config.tUnit + Config.readTimeout := by
  refine (answerTokens_wait_le a).trans ?_
  rw [failedPolls_wait]
  have hcounts := h.counts_length
  gcongr

theorem attemptTokens_wait (guardUs : Word) (frame : List Byte) {a : AttemptRecord} (h : legalAttempt a) :
    ((attemptTokens guardUs frame a).map waitBound).sum ≤ worstAttemptWait guardUs := by
  have hanswer := answerTokens_wait h
  rw [attemptTokens, List.map_append, List.sum_append, transmitTokens_wait, worstAttemptWait]
  omega

theorem attempts_wait (guardUs : Word) (frame : List Byte) {atts : List AttemptRecord} (h : ∀ a ∈ atts, legalAttempt a) :
    (((atts.map (attemptTokens guardUs frame)).flatten).map waitBound).sum ≤ atts.length * worstAttemptWait guardUs := by
  rw [List.map_flatten, List.sum_flatten, List.map_map, List.map_map]
  refine (List.sum_le_card_nsmul _ (worstAttemptWait guardUs) fun n hn => ?_).trans_eq (by simp)
  obtain ⟨a, ha, rfl⟩ := List.mem_map.1 hn
  exact attemptTokens_wait guardUs frame (h a ha)

/-- Settles O55: at most three attempts wait, each no longer than the worst case; the last switch of the line and the END do
not. -/
theorem exchangeWaitIsBounded : Obligations.ExchangeWaitIsBounded := by
  intro i s frame h
  obtain ⟨r, atts, new, hx⟩ := h.exchanged
  refine ⟨conclude i r, _, hx.exec_eq, hx.trace, ?_⟩
  have hlast : ((if isValue r.1 then [Token.line true] else []).map waitBound).sum = 0 := by split <;> rfl
  have hend : ((endTokens i r.1).map waitBound).sum = 0 := by unfold endTokens; split <;> rfl
  have hattempts := attempts_wait r.2.guardUs frame hx.legal
  rw [totalWait, tokens_append, tokens_concludeEntries, hx.tokens, List.map_append, List.map_append, List.sum_append,
    List.sum_append, hlast, hend, conclude_guardUs, worstCaseWait_eq]
  exact hattempts.trans (Nat.mul_le_mul_right _ hx.bounded)

end Sys2Proof.Machine
end

section
/-! Exchanges in a known environment (44_transaction_manager.md rules R219, R220, 95_test_vectors.md S7, S8, P2; log entry 2): a
silent slave, and one whose third response is the first that is not corrupt. -/

namespace Sys2Proof.Machine

open Sys2Proof

/-- From `s` to `t` the trace gains these actions. -/
def Acts (s t : State) (toks : List Token) : Prop := ∃ new : List TraceEntry, t.trace = s.trace ++ new ∧ tokens new = toks

theorem Acts.trans {s t u : State} {l m : List Token} (h : Acts s t l) (k : Acts t u m) : Acts s u (l ++ m) := by
  obtain ⟨new, htrace, rfl⟩ := h
  obtain ⟨more, hmore, rfl⟩ := k
  exact ⟨new ++ more, by rw [hmore, htrace, List.append_assoc], tokens_append new more⟩

theorem Acts.congr {s s' t t' : State} {l : List Token} (h : Acts s t l) (hs : s'.trace = s.trace) (ht : t'.trace = t.trace) :
    Acts s' t' l := by
  obtain ⟨new, htrace, htokens⟩ := h
  exact ⟨new, by rw [ht, hs, htrace], htokens⟩

theorem acts_conclude (i : Instr) (r : ResponseOutcome × State) : Acts r.2 (conclude i r) (endTokens i r.1) :=
  ⟨_, conclude_trace i r, tokens_concludeEntries i r⟩

/-- The environment's slot before the END of a host command is quiet: the conclusion leaves the channel alone. -/
theorem conclude_quiet {i : Instr} {r : ResponseOutcome × State} {rest : List Slot} (h : r.2.script = endSlots i ++ rest) :
    (conclude i r).script = rest ∧ (conclude i r).chan = r.2.chan := by
  by_cases hi : i = .transact
  · subst hi
    rw [conclude_transact]
    exact ⟨h, rfl⟩
  · have hend : r.2.script = Slot.quiet :: rest := by rw [h, endSlots, if_neg hi]; rfl
    rw [conclude_of_ne hi]
    refine ⟨by rw [finish_script, setSeq_script, hend]; rfl, ?_⟩
    exact (finish_chan _ _).trans (environment_chan_quiet (s := setSeq .idle r.2) hend)

/-! ### The transmit step where nothing happens (rule R216) -/

theorem transmitStep_acts (s : State) : Acts s (transmitStep s) (transmitTokens s.guardUs (txFrame s)) := by
  obtain ⟨htrace, -⟩ := transmitStep_spec s
  exact ⟨_, htrace, tokens_transmitEntries _ _ _⟩

theorem serWaitTxDone_quiet {s : State} {rest : List Slot} (h : s.script = Slot.quiet :: rest) :
    (serWaitTxDone s).chan = s.chan := environment_chan_quiet (s := logAct .txwait s) h

theorem waitBusyUs_quiet (n : Word) {s : State} {rest : List Slot} (h : s.script = Slot.quiet :: rest) :
    (waitBusyUs n s).chan = s.chan := environment_chan_quiet (s := logAct (.guard n) s) h

/-- A write begins with the flush, and nothing arrives after it (42_serial_transport.md rule R163). -/
theorem transportWrite_quiet (bytes : List Byte) {s : State} {rest : List Slot}
    (h : s.script = Slot.quiet :: Slot.quiet :: rest) :
    (transportWrite bytes s).chan.rxq = [] ∧ (transportWrite bytes s).script = rest := by
  have hflush : (environment (serFlush s)).chan.rxq = [] := by rw [environment_chan_quiet (s := serFlush s) h]; rfl
  have hnext : (serWriteBytes bytes (environment (serFlush s))).script = Slot.quiet :: rest := congrArg List.tail h
  constructor
  · rw [transportWrite, serWaitTxDone_quiet hnext]
    exact hflush
  · exact congrArg List.tail hnext

theorem transmitStep_quiet {s : State} {rest : List Slot} (h : s.script = List.replicate 5 Slot.quiet ++ rest) :
    (transmitStep s).chan.rxq = [] ∧ (transmitStep s).script = rest := by
  generalize hswitched : waitBusyUs s.guardUs (setTransmit true (environment (setSeq .transmitting s))) = s1
  have hscript : s1.script = Slot.quiet :: Slot.quiet :: Slot.quiet :: rest := by
    rw [← hswitched]; exact congrArg (fun l => l.tail.tail) h
  obtain ⟨hrxq, hlast⟩ := transportWrite_quiet (txFrame s1) hscript
  generalize hwritten : transportWrite (txFrame s1) s1 = s2 at hrxq hlast
  have hstep : transmitStep s = setTransmit false (waitBusyUs s2.guardUs (setSeq .lineSwitchDelay s2)) := by
    rw [← hwritten, ← hswitched]; rfl
  have hwait : (waitBusyUs s2.guardUs (setSeq .lineSwitchDelay s2)).chan = s2.chan := waitBusyUs_quiet _ hlast
  rw [hstep]
  exact ⟨(congrArg Channel.rxq hwait).trans hrxq, congrArg List.tail hlast⟩

/-! ### A silent slave (rule R219) -/

/-- What an attempt leaves where nothing happens in the environment, the slots in `rest` still to come. -/
structure Unanswered (rest : List Slot) (s t : State) : Prop where
  attempt : t.attempt = s.attempt
  guardUs : t.guardUs = s.guardUs
  poll : t.poll = 10
  rxLen : t.rxLen = 0
  txMode : t.txMode = false
  script : t.script = rest
  rxq : t.chan.rxq = []
  acts : Acts s t (transmitTokens s.guardUs (txFrame s) ++ failedPolls (List.replicate 10 0))

/-- Ten quiet polls of an empty RXQ are no response. -/
theorem awaitAndValidate_silent {s : State} {rest : List Slot} (hscript : s.script = List.replicate 10 Slot.quiet ++ rest)
    (hempty : s.chan.rxq = []) :
    awaitAndValidate s = (.noResponse, afterQuietPolls 10 rest (clearRx (setPoll 0 s))) := by
  have hread : transportReadResponse s = (false, afterQuietPolls 10 rest (clearRx (setPoll 0 s))) :=
    pollLoop_quiet 10 (s := clearRx (setPoll 0 s)) hscript (by simp [hempty])
  simp [awaitAndValidate, hread]

theorem attemptOnce_silent {s : State} {rest : List Slot} (h : s.script = silentSlots ++ rest) :
    (attemptOnce s).1 = .noResponse ∧ Unanswered rest s (attemptOnce s).2 := by
  obtain ⟨-, -, -, htxMode, hattempt, -, hkept⟩ := transmitStep_spec s
  have hacts := transmitStep_acts s
  obtain ⟨hrxq, hscript⟩ := transmitStep_quiet (rest := List.replicate 11 Slot.quiet ++ rest) h
  rw [attemptOnce]
  generalize transmitStep s = u at *
  have hempty : (environment (setSeq .awaitingResponse u)).chan.rxq = [] := by
    rw [environment_chan_quiet (s := setSeq .awaitingResponse u) hscript]; exact hrxq
  rw [awaitAndValidate_silent (congrArg List.tail hscript) hempty]
  refine ⟨rfl, hattempt, hkept.guardUs, rfl, rfl, htxMode, rfl, hempty, hacts.trans ⟨_, rfl, ?_⟩⟩
  have hpolls := tokens_replicate_failedPollEntries 10 (clearRx (setPoll 0 (environment (setSeq .awaitingResponse u))))
  simpa [hempty] using hpolls

theorem transactLoop_of_noResponse (k : Nat) {s : State} (h : (attemptOnce s).1 = .noResponse) :
    transactLoop (k + 1) s = (.noResponse, (attemptOnce s).2) := by
  simp [transactLoop, h]

/-- Settles O58: the first attempt reads nothing, and NoResponse is not retried. -/
theorem silentSlaveGivesNoResponse : Obligations.SilentSlaveGivesNoResponse := by
  intro i s frame rest h hscript
  obtain ⟨p, hbegun, hexec⟩ := h.concludes
  have hslots : (setAttempt 1 p).script = silentSlots ++ (endSlots i ++ rest) :=
    hbegun.script.trans (hscript.trans (List.append_assoc _ _ _))
  obtain ⟨hno, ht⟩ := attemptOnce_silent hslots
  have hrun : runTransact p = (.noResponse, (attemptOnce (setAttempt 1 p)).2) := transactLoop_of_noResponse 2 hno
  rw [hrun] at hexec
  generalize (attemptOnce (setAttempt 1 p)).2 = u at hexec ht
  obtain ⟨hrest, hchan⟩ := conclude_quiet (r := (.noResponse, u)) ht.script
  obtain ⟨new, htrace, htokens⟩ := (ht.acts.trans (acts_conclude i (.noResponse, u))).congr (s' := s) hbegun.trace.symm rfl
  refine ⟨_, new, hexec, reports_conclude i _, ?_, ?_, ?_, ?_, hrest, hchan ▸ ht.rxq, htrace, ?_⟩
  · rw [conclude_attempt]; exact ht.attempt
  · rw [conclude_poll]; exact ht.poll
  · rw [conclude_rxLen]; exact ht.rxLen
  · rw [conclude_txMode]; exact ht.txMode
  · rw [htokens, conclude_guardUs, ht.guardUs, ← hbegun.txFrame]; rfl

/-! ### An attempt that is answered (rules R216, R188) -/

/-- Bytes that come where nothing is lost stand in RXQ behind what was there. -/
theorem channelSteps_arrivals_keep (bytes : List Byte) (s : State) :
    (channelSteps (bytes.map fun b => .arrive b .keep) s).chan.rxq = s.chan.rxq ++ bytes := by
  have harrive : ∀ (cap : Nat) (b : Byte) (q : List Byte), arrive cap b .keep q = q ++ [b] := fun cap b q => by
    simp [arrive]
  suffices h : ∀ c : Channel, ((bytes.map fun b => ChannelEvent.arrive b .keep).foldl (channelStep s.txMode) c).rxq =
      c.rxq ++ bytes from h s.chan
  induction bytes with
  | nil => simp
  | cons b bytes ih => intro c; simp [ih, channelStep, harrive]

theorem environment_answers {bytes : List Byte} {s : State} {rest : List Slot}
    (h : s.script = ⟨bytes.map fun b => .arrive b .keep, 0⟩ :: rest) :
    (environment s).chan.rxq = s.chan.rxq ++ bytes := by
  have hnext : nextSlot s = ⟨bytes.map fun b => .arrive b .keep, 0⟩ := by simp [nextSlot, h]
  rw [environment, hnext, endSlot_chan, channelSteps_arrivals_keep]

/-- A buffered response and two quiet slots: one poll, one read of its first 16 bytes, and the decode. -/
theorem awaitAndValidate_buffered {s : State} {rest : List Slot} (hscript : s.script = Slot.quiet :: Slot.quiet :: rest)
    (h : Config.rxThreshold < s.chan.rxq.length) :
    (awaitAndValidate s).2.script = rest ∧
    Acts s (awaitAndValidate s).2 [.count s.chan.rxq.length, .rx (s.chan.rxq.take Config.readMax)] := by
  have hread := transportReadResponse_of_buffered hscript h
  obtain ⟨-, -, hrest, htrace⟩ := readResponse_quiet_frame (s := afterBufferedPoll (Slot.quiet :: rest) s) rfl
  generalize readResponse (afterBufferedPoll (Slot.quiet :: rest) s) = u at hread hrest htrace
  have hvalidate : awaitAndValidate s = validateStep u := by simp [awaitAndValidate, hread]
  obtain ⟨crc, fresh, hwrites⟩ := decodeWrites_spec (rxFrame u) (setSeq .validating u)
  rw [hvalidate, validateStep, hwrites]
  exact ⟨hrest, _, htrace.trans (List.append_assoc _ _ _), rfl⟩

/-- What an attempt leaves that is answered with `bytes` and disturbed by nothing, the slots in `rest` still to come. -/
structure AnsweredWith (bytes : List Byte) (rest : List Slot) (s t : State) : Prop where
  response : rxFrame t = bytes
  script : t.script = rest
  attempt : t.attempt = s.attempt
  guardUs : t.guardUs = s.guardUs
  frame : txFrame t = txFrame s
  acts : Acts s t (transmitTokens s.guardUs (txFrame s) ++ [.count bytes.length, .rx bytes])

theorem attemptOnce_answered {bytes : List Byte} (hlen : 6 ≤ bytes.length ∧ bytes.length ≤ 16) {s : State} {rest : List Slot}
    (h : s.script = answerSlots bytes ++ rest) :
    (∃ base, (attemptOnce s).1 = decodeBytes base bytes) ∧ AnsweredWith bytes rest s (attemptOnce s).2 := by
  obtain ⟨_, _, hattempted⟩ := attemptOnce_spec s
  have hkept := hattempted.untouched
  have hattempt := hattempted.attempt
  have hacts := transmitStep_acts s
  obtain ⟨hrxq, hscript⟩ := transmitStep_quiet
    (rest := ⟨bytes.map fun b => .arrive b .keep, 0⟩ :: Slot.quiet :: Slot.quiet :: rest) h
  rw [attemptOnce] at hkept hattempt ⊢
  generalize transmitStep s = u at *
  have hbuffered : (environment (setSeq .awaitingResponse u)).chan.rxq = bytes := by
    rw [environment_answers (s := setSeq .awaitingResponse u) hscript, setSeq_chan, hrxq, List.nil_append]
  have hslots : (environment (setSeq .awaitingResponse u)).script = Slot.quiet :: Slot.quiet :: rest :=
    congrArg List.tail hscript
  have henough : Config.rxThreshold < (environment (setSeq .awaitingResponse u)).chan.rxq.length := by
    rw [hbuffered]; exact hlen.1
  have hall : bytes.take Config.readMax = bytes := List.take_of_length_le hlen.2
  obtain ⟨base, houtcome, -, hresponse, -⟩ := awaitAndValidate_quiet hslots henough
  obtain ⟨hrest, hread⟩ := awaitAndValidate_buffered hslots henough
  rw [hbuffered, hall] at houtcome hresponse hread
  exact ⟨⟨base, houtcome⟩, hresponse, hrest, hattempt, hkept.guardUs, hkept.txFrame,
    hacts.trans (hread.congr (s' := u) rfl rfl)⟩

/-! ### The third attempt (rules R217, R220) -/

theorem transactLoop_of_value (k : Nat) {s : State} {v : Word} (h : (attemptOnce s).1 = .value v) :
    transactLoop (k + 1) s = (.value v, setTransmit true (environment (setSeq .decoded (attemptOnce s).2))) := by
  simp [transactLoop, h]

theorem transactLoop_of_checksumError (k : Nat) {s : State} (h : (attemptOnce s).1 = .checksumError)
    (hmore : (attemptOnce s).2.attempt ≠ 3) : transactLoop (k + 1) s =
      transactLoop k (setAttempt ((attemptOnce s).2.attempt + 1) (setSeq .retry (attemptOnce s).2)) := by
  have hnot : ¬ (attemptOnce s).2.attempt = BitVec.ofNat 2 Config.maxAttempts := hmore
  simp [transactLoop, h, hnot]

section
variable {bytes : List Byte} (hlen : 6 ≤ bytes.length ∧ bytes.length ≤ 16) {s : State} {rest : List Slot}
include hlen

/-- A corrupt response before the third attempt: the loop goes on with the next attempt. -/
theorem transactLoop_corrupt (k : Nat) (hscript : s.script = answerSlots bytes ++ rest) (hcorrupt : crcValid bytes = false)
    (hmore : s.attempt ≠ 3) : ∃ t, transactLoop (k + 1) s = transactLoop k t ∧ t.attempt = s.attempt + 1 ∧
      t.script = rest ∧ t.guardUs = s.guardUs ∧ txFrame t = txFrame s ∧
      Acts s t (transmitTokens s.guardUs (txFrame s) ++ [.count bytes.length, .rx bytes]) := by
  obtain ⟨⟨base, houtcome⟩, ht⟩ := attemptOnce_answered hlen hscript
  have herror := houtcome.trans (decodeBytes_of_not_valid hcorrupt)
  refine ⟨_, transactLoop_of_checksumError k herror (ht.attempt ▸ hmore), ?_, ht.script, ht.guardUs, ht.frame,
    ht.acts.congr rfl rfl⟩
  rw [setAttempt_attempt, ht.attempt]

/-- A response that decodes to a value ends the loop, after one more switch of the line. -/
theorem transactLoop_answered (k : Nat) {v : Word} (hscript : s.script = answerSlots bytes ++ Slot.quiet :: rest)
    (hvalue : ∀ base, decodeBytes base bytes = .value v) : ∃ t, transactLoop (k + 1) s = (.value v, t) ∧
      t.attempt = s.attempt ∧ t.txMode = true ∧ rxFrame t = bytes ∧ t.script = rest ∧ t.guardUs = s.guardUs ∧
      Acts s t (transmitTokens s.guardUs (txFrame s) ++ [.count bytes.length, .rx bytes] ++ [.line true]) := by
  obtain ⟨⟨base, houtcome⟩, ht⟩ := attemptOnce_answered hlen hscript
  have hrun := transactLoop_of_value k (houtcome.trans (hvalue base))
  generalize (attemptOnce s).2 = u at ht hrun
  exact ⟨_, hrun, ht.attempt, rfl, ht.response, congrArg List.tail ht.script, ht.guardUs, ht.acts.trans ⟨_, rfl, rfl⟩⟩

end

/-- Settles O59: two corrupt attempts, then the one that succeeds; the guard time and the frame are the same in all three. -/
theorem thirdAttemptSucceedsAfterTwoCorruptResponses : Obligations.ThirdAttemptSucceedsAfterTwoCorruptResponses := by
  intro i s frame r1 r2 r3 v rest h hlen hcorrupt1 hcorrupt2 hvalue hscript
  obtain ⟨p, hbegun, hexec⟩ := h.concludes
  have hslots : (setAttempt 1 p).script =
      answerSlots r1 ++ (answerSlots r2 ++ (answerSlots r3 ++ Slot.quiet :: (endSlots i ++ rest))) := by
    rw [setAttempt_script, hbegun.script, hscript, List.append_assoc, List.append_assoc]
  obtain ⟨s2, hloop1, hattempt1, hslots2, hguard1, hframe1, hacts1⟩ :=
    transactLoop_corrupt (hlen r1 (by simp)) 2 hslots hcorrupt1 (by rw [setAttempt_attempt]; decide)
  obtain ⟨s3, hloop2, hattempt2, hslots3, hguard2, hframe2, hacts2⟩ :=
    transactLoop_corrupt (hlen r2 (by simp)) 1 hslots2 hcorrupt2 (by rw [hattempt1, setAttempt_attempt]; decide)
  obtain ⟨u, hloop3, hattempt3, htxMode, hresponse, hscript3, hguard3, hacts3⟩ :=
    transactLoop_answered (hlen r3 (by simp)) 0 hslots3 hvalue
  have hrun : runTransact p = (.value v, u) := hloop1.trans (hloop2.trans hloop3)
  rw [hrun] at hexec
  have hguard : (conclude i (.value v, u)).guardUs = p.guardUs := by
    rw [conclude_guardUs, hguard3, hguard2, hguard1, setAttempt_guardUs]
  have hframe : txFrame (setAttempt 1 p) = frame := hbegun.txFrame
  obtain ⟨new, htrace, htokens⟩ := (((hacts1.trans hacts2).trans hacts3).trans (acts_conclude i (.value v, u))).congr
    (s' := s) hbegun.trace.symm rfl
  refine ⟨_, new, hexec, reports_conclude i _, ?_, ?_, ?_, (conclude_quiet hscript3).1, htrace, ?_⟩
  · rw [conclude_attempt, hattempt3, hattempt2, hattempt1]; rfl
  · rw [conclude_txMode, htxMode]
  · exact (rxFrame_congr (conclude_rxb i _) (conclude_rxLen i _)).trans hresponse
  · rw [htokens, hguard, hguard2, hframe2, hguard1, hframe1, hframe, setAttempt_guardUs]
    simp only [List.append_assoc]

end Sys2Proof.Machine
end

section
/-! INIT, SET_BAUDRATE and FLUSH (45_host_operations.md rules R252 to R261): which of them are refused, and what an accepted
one does. -/

namespace Sys2Proof.Machine

open Sys2Proof

/-! ### Refusals (rules R252, R257, R261) -/

/-- The bounds of rule R252. -/
theorem legalConfiguration_iff (baud rxCap : Word) : legalConfiguration baud rxCap = true ↔ 4800 ≤ baud ∧ 128 < rxCap := by
  rw [legalConfiguration, Bool.and_eq_true, decide_eq_true_eq, decide_eq_true_eq]
  exact Iff.rfl

/-- Settles O38: a configuration that breaks a bound is not legal. -/
theorem illegalInitIsRefused : Obligations.IllegalInitIsRefused := by
  intro port baud rxCap de re tx rx s hbusy hbroken
  have hillegal : ¬ legalConfiguration baud rxCap = true := by
    rw [legalConfiguration_iff, not_and_or, BitVec.not_le, BitVec.not_lt]
    exact hbroken
  exact (if_neg (Bool.eq_false_iff.1 hbusy)).trans (if_neg hillegal)

theorem execSetBaudrate_of_not_ready (baud : Word) {s : State} (hbusy : s.busy = false) (hnot : s.initialised = false) :
    execSetBaudrate baud s = .refused .notInitialised := by
  simp [execSetBaudrate, hbusy, hnot]

/-- Settles O39: three of the commands stand under `whenInitialised`, and SET_BAUDRATE makes the same test. -/
theorem commandsBeforeInitAreRefused : Obligations.CommandsBeforeInitAreRefused :=
  fun _ _ _ _ baud _ hbusy hnot => ⟨execSetBaudrate_of_not_ready baud hbusy hnot,
    whenInitialised_of_not_ready _ hbusy hnot, whenInitialised_of_not_ready _ hbusy hnot,
    whenInitialised_of_not_ready _ hbusy hnot⟩

theorem execSetBaudrate_of_ready (baud : Word) {s : State} (hbusy : s.busy = false) (hready : s.initialised = true) :
    execSetBaudrate baud s =
      if Config.minBaud ≤ baud then .next (baudBody baud (accept s)) else .refused .illegalBaudRate := by
  simp [execSetBaudrate, hbusy, hready]

/-- Settles O42: the rate is tested after `INITIALISED`. -/
theorem lowBaudrateIsRefused : Obligations.LowBaudrateIsRefused :=
  fun baud _ hbusy hready hlow => (execSetBaudrate_of_ready baud hbusy hready).trans (if_neg (BitVec.not_le.2 hlow))

/-- Before the end of an operation the environment may act, and nothing else reaches the channel (rules R262, R72). -/
theorem finishNoResult_acted (s : State) : EnvironmentActed s.txMode s.chan (finishNoResult s).chan := environment_acted s

/-! ### INIT (rules R253, R254) -/

theorem execInit_of_legal {port : Byte} {baud rxCap : Word} (de re tx rx : Byte) {s : State} (hbusy : s.busy = false)
    (hlegal : legalConfiguration baud rxCap = true) : execInit port baud rxCap de re tx rx s =
      .next (initBody ⟨port, baud, rxCap, de, re, tx, rx⟩ (accept s)) := by
  simp [execInit, hbusy, hlegal]

/-- `ser_configure` keeps what was sent, and the environment's three slots around it and SET_TRANSMIT only add to it. -/
theorem initBody_txLine (c : Configuration) (s : State) : s.chan.txLine <+: (initBody c s).chan.txLine := by
  have hbefore := environment_txLine (setCfg c s)
  have hbetween := environment_txLine (serConfigure (environment (setCfg c s)))
  have hafter := environment_txLine
    (forgetOutcome (setInitialised (setTransmit false (environment (serConfigure (environment (setCfg c s)))))))
  exact (hbefore.trans hbetween).trans hafter

theorem initBody_settings (c : Configuration) (s : State) : (initBody c s).chan.settings = some (settingsOf c) := by
  simp [initBody, setTransmit, serConfigure]

theorem initBody_pins (c : Configuration) (s : State) :
    pinLevel (initBody c s).gpio c.pinDe.toNat = some false ∧ pinLevel (initBody c s).gpio c.pinRe.toNat = some false :=
  setTransmit_pins (environment (serConfigure (environment (setCfg c s)))) false

theorem initBody_others (c : Configuration) (s : State) {p : Nat} (hde : p ≠ c.pinDe.toNat) (hre : p ≠ c.pinRe.toNat) :
    pinLevel (initBody c s).gpio p = pinLevel s.gpio p :=
  setTransmit_others (environment (serConfigure (environment (setCfg c s)))) false hde hre

theorem initBody_trace (c : Configuration) (s : State) : (initBody c s).trace = s.trace ++
    [⟨.configure (settingsOf c), s.seq, s.txMode, s.attempt⟩, ⟨.line false, s.seq, false, s.attempt⟩] :=
  List.append_assoc s.trace [_] [_]

/-- Settles O37: a legal INIT runs `initBody`, the same whether it is the first or a later one; BUSY, which acceptance set, is
back at 0 at the end, so that the frame holds by computation. -/
theorem initConfiguresAndReceives : Obligations.InitConfiguresAndReceives := by
  intro port baud rxCap de re tx rx s hbusy hbaud hcap
  have hlegal := (legalConfiguration_iff baud rxCap).2 ⟨hbaud, hcap⟩
  refine ⟨_, execInit_of_legal de re tx rx hbusy hlegal, rfl, rfl, rfl, initBody_settings _ _, initBody_txLine _ (accept s),
    rfl, initBody_pins _ _, fun _ hde hre => initBody_others _ (accept s) hde hre, initBody_trace _ (accept s), ?_⟩
  cases s; cases hbusy; rfl

/-! ### SET_BAUDRATE (rule R256) -/

/-- Settles O41: of `baudBody`'s actions only `ser_configure` reaches the channel; the environment has a slot before it and
one before the end. -/
theorem setBaudrateChangesTheRateAlone : Obligations.SetBaudrateChangesTheRateAlone := by
  intro baud s hbusy hready hlegal
  have hexec := (execSetBaudrate_of_ready baud hbusy hready).trans (if_pos hlegal)
  refine ⟨_, _, _, _, hexec, rfl, rfl, environment_acted (setCfg { s.cfg with baud := baud } (accept s)),
    finishNoResult_acted _, rfl, ?_⟩
  cases s; cases hbusy; rfl

/-! ### FLUSH (rule R259) -/

/-- Where the environment does nothing at FLUSH's two slots, RXQ is emptied and nothing else happens on the channel. -/
theorem flushBody_chan_quiet {s : State} {rest : List Slot} (h : s.script = Slot.quiet :: Slot.quiet :: rest) :
    (flushBody s).chan = { s.chan with rxq := [] } := by
  have hbefore := environment_quiet h
  have hafter : (environment (forgetValue (serFlush (environment s)))).chan = (forgetValue (serFlush (environment s))).chan :=
    environment_chan_quiet (rest := rest) (by rw [hbefore]; rfl)
  exact hafter.trans (by rw [hbefore]; rfl)

/-- Settles O43: FLUSH runs `flushBody`, which forgets OUTCOME.VALUE and not the tag. -/
theorem flushEmptiesTheReceiveQueueAndCompletes : Obligations.FlushEmptiesTheReceiveQueueAndCompletes := by
  intro s hbusy hready
  refine ⟨_, _, whenInitialised_of_ready _ hbusy hready, environment_acted (accept s), finishNoResult_acted _,
    fun _ hquiet => flushBody_chan_quiet (s := accept s) hquiet, ?_⟩
  cases s; cases hbusy; rfl

end Sys2Proof.Machine
end

section
/-! What a register held before has no influence (70_reset_and_hazards.md rules R302, R304): `rst` writes every register, and a
REQUEST, a SET or a request frame writes the registers of its call before it reads them. -/

namespace Sys2Proof.Machine

open Sys2Proof

/-! ### The reset (rule R302) -/

/-- Settles O7: the stimulus is `applyReset`, which takes the registers from `State.reset`. -/
theorem resetInputResetsRegistersNotTheEnvironment : Obligations.ResetInputResetsRegistersNotTheEnvironment := by
  intro s rest hinputs
  have hfetch : fetch s = .settled (applyReset (setInputs rest s)) := by rw [fetch, hinputs]
  exact ⟨_, step_of_fetch_eq_settled hfetch, resetValues.1, rfl, rfl, rfl⟩

/-! ### States that differ in REQ and the places of the buffers that no operation reads -/

/-- `REQ`, all of TXF and all of RXB written over. -/
def withBuffers (req : Request) (txf : Vector Byte Config.writeReqLen) (rxb : Vector Byte Config.readMax) (s : State) : State :=
  { s with req := req, txf := txf, rxb := rxb }

/-- `t` is `s` but for REQ and the bytes of TXF and RXB beyond the frame built and the bytes received. -/
structure Alike (s t : State) : Prop where
  overwritten : ∃ req txf rxb, t = withBuffers req txf rxb s
  txFrame : txFrame t = txFrame s
  rxFrame : rxFrame t = rxFrame s

theorem Alike.eq {s t : State} (h : Alike s t) : t = { s with req := t.req, txf := t.txf, rxb := t.rxb } := by
  obtain ⟨req, txf, rxb, rfl⟩ := h.overwritten
  rfl

/-- What does not read REQ, TXF and RXB is the same of alike states. -/
theorem Alike.congr {α : Type} {s t : State} (h : Alike s t) {g : State → α}
    (hg : ∀ req txf rxb u, g (withBuffers req txf rxb u) = g u) : g t = g s := by
  obtain ⟨req, txf, rxb, rfl⟩ := h.overwritten
  exact hg req txf rxb s

/-- `f` neither reads nor writes REQ, TXF and RXB, and it keeps their lengths. -/
structure IgnoresBuffers (f : State → State) : Prop where
  comm : ∀ req txf rxb s, f (withBuffers req txf rxb s) = withBuffers req txf rxb (f s)
  txLen : ∀ s, (f s).txLen = s.txLen
  rxLen : ∀ s, (f s).rxLen = s.rxLen

section
variable {f : State → State} (hf : IgnoresBuffers f) (s : State)
include hf

theorem IgnoresBuffers.keeps : f s = withBuffers s.req s.txf s.rxb (f s) := hf.comm s.req s.txf s.rxb s

theorem IgnoresBuffers.txFrame : txFrame (f s) = txFrame s :=
  txFrame_congr (congrArg State.txf (hf.keeps s) :) (hf.txLen s)

theorem IgnoresBuffers.rxFrame : rxFrame (f s) = rxFrame s :=
  rxFrame_congr (congrArg State.rxb (hf.keeps s) :) (hf.rxLen s)

end

theorem Alike.map {s t : State} (h : Alike s t) {f : State → State} (hf : IgnoresBuffers f) : Alike (f s) (f t) where
  overwritten := by
    obtain ⟨req, txf, rxb, rfl⟩ := h.overwritten
    exact ⟨req, txf, rxb, hf.comm req txf rxb s⟩
  txFrame := by rw [hf.txFrame, hf.txFrame, h.txFrame]
  rxFrame := by rw [hf.rxFrame, hf.rxFrame, h.rxFrame]

theorem IgnoresBuffers.comp {f g : State → State} (hf : IgnoresBuffers f) (hg : IgnoresBuffers g) :
    IgnoresBuffers fun s => g (f s) where
  comm req txf rxb s := by rw [hf.comm, hg.comm]
  txLen s := by rw [hg.txLen, hf.txLen]
  rxLen s := by rw [hg.rxLen, hf.rxLen]

/-- The same answer with alike states. -/
structure AlikeAnswers {α : Type} (r r' : α × State) : Prop where
  answer : r'.1 = r.1
  state : Alike r.2 r'.2

/-! ### The actions of an exchange that leave REQ and the buffers alone -/

theorem environment_ignoresBuffers : IgnoresBuffers environment := ⟨fun _ _ _ _ => rfl, fun _ => rfl, fun _ => rfl⟩

theorem logAct_ignoresBuffers (tok : Token) : IgnoresBuffers (logAct tok) :=
  ⟨fun _ _ _ _ => rfl, fun _ => rfl, fun _ => rfl⟩

theorem setSeq_ignoresBuffers (q : SeqState) : IgnoresBuffers (setSeq q) :=
  ⟨fun _ _ _ _ => rfl, fun _ => rfl, fun _ => rfl⟩

theorem setAttempt_ignoresBuffers (n : BitVec 2) : IgnoresBuffers (setAttempt n) :=
  ⟨fun _ _ _ _ => rfl, fun _ => rfl, fun _ => rfl⟩

theorem setTransmit_ignoresBuffers (b : Bool) : IgnoresBuffers (setTransmit b) :=
  ⟨fun _ _ _ _ => rfl, fun _ => rfl, fun _ => rfl⟩

theorem countPoll_ignoresBuffers : IgnoresBuffers fun s => setPoll (s.poll + 1) (logCount s) :=
  ⟨fun _ _ _ _ => rfl, fun _ => rfl, fun _ => rfl⟩

theorem waitBusyUs_ignoresBuffers (n : Word) : IgnoresBuffers (waitBusyUs n) :=
  ((logAct_ignoresBuffers (.guard n)).comp environment_ignoresBuffers :)

theorem serFlush_ignoresBuffers : IgnoresBuffers serFlush := ⟨fun _ _ _ _ => rfl, fun _ => rfl, fun _ => rfl⟩

theorem serWriteBytes_ignoresBuffers (bytes : List Byte) : IgnoresBuffers (serWriteBytes bytes) :=
  ⟨fun _ _ _ _ => rfl, fun _ => rfl, fun _ => rfl⟩

theorem serWaitTxDone_ignoresBuffers : IgnoresBuffers serWaitTxDone :=
  ((logAct_ignoresBuffers .txwait).comp environment_ignoresBuffers :)

theorem transportWrite_ignoresBuffers (bytes : List Byte) : IgnoresBuffers (transportWrite bytes) :=
  (((serFlush_ignoresBuffers.comp environment_ignoresBuffers).comp (serWriteBytes_ignoresBuffers bytes)).comp
    serWaitTxDone_ignoresBuffers :)

theorem readWait_ignoresBuffers : IgnoresBuffers readWait := ⟨fun _ _ _ _ => rfl, fun _ => rfl, fun _ => rfl⟩

theorem readCount_withBuffers (max : Nat) (req : Request) (txf : Vector Byte Config.writeReqLen)
    (rxb : Vector Byte Config.readMax) (s : State) : readCount max (withBuffers req txf rxb s) = readCount max s := by
  rw [readCount, readWait_ignoresBuffers.comm]
  rfl

theorem readBytes_withBuffers (max : Nat) (req : Request) (txf : Vector Byte Config.writeReqLen)
    (rxb : Vector Byte Config.readMax) (s : State) : readBytes max (withBuffers req txf rxb s) = readBytes max s := by
  rw [readBytes, readCount_withBuffers, readWait_ignoresBuffers.comm]
  rfl

theorem serReadBytes_ignoresBuffers (max : Nat) : IgnoresBuffers (serReadBytes max) where
  comm req txf rxb s := by
    rw [serReadBytes, readBytes_withBuffers, readCount_withBuffers, readWait_ignoresBuffers.comm, serReadBytes]
    generalize readWait s = u
    rfl
  txLen s := by simp [serReadBytes]
  rxLen s := by simp [serReadBytes]

theorem waitYield_ignoresBuffers (n : Nat) : IgnoresBuffers (waitYield n) :=
  ((logAct_ignoresBuffers (.yield n)).comp environment_ignoresBuffers :)

theorem setOutcome_ignoresBuffers (o : ResponseOutcome) : IgnoresBuffers (setOutcome o) :=
  ⟨fun _ _ _ _ => rfl, fun _ => rfl, fun _ => rfl⟩

theorem complete_ignoresBuffers : IgnoresBuffers complete := ⟨fun _ _ _ _ => rfl, fun _ => rfl, fun _ => rfl⟩

theorem finish_ignoresBuffers (o : ResponseOutcome) : IgnoresBuffers (finish o) :=
  (((environment_ignoresBuffers.comp (setOutcome_ignoresBuffers o)).comp (logAct_ignoresBuffers (.finished o))).comp
    complete_ignoresBuffers :)

theorem decodeWrites_ignoresBuffers (bytes : List Byte) : IgnoresBuffers (decodeWrites bytes) := by
  unfold decodeWrites
  by_cases hshort : bytes.length < 4
  · simp only [if_pos hshort]; exact ⟨fun _ _ _ _ => rfl, fun _ => rfl, fun _ => rfl⟩
  · simp only [if_neg hshort]; exact ⟨fun _ _ _ _ => rfl, fun _ => rfl, fun _ => rfl⟩

/-! ### One attempt (44_transaction_manager.md rule R216) -/

theorem txFrame_loadRxb (got : List Byte) (s : State) : txFrame (loadRxb got s) = txFrame s :=
  txFrame_congr (loadRxb_txf s got) (loadRxb_txLen s got)

section
variable {s t : State} (h : Alike s t)
include h

theorem Alike.guardUs : t.guardUs = s.guardUs := h.congr fun _ _ _ _ => rfl

theorem Alike.transmitStep : Alike (transmitStep s) (transmitStep t) := by
  have hswitched := ((h.map (setSeq_ignoresBuffers .transmitting)).map environment_ignoresBuffers).map
    (setTransmit_ignoresBuffers true)
  have hguarded := hswitched.map (waitBusyUs_ignoresBuffers s.guardUs)
  have hsent := hguarded.map (transportWrite_ignoresBuffers
    (Machine.txFrame (waitBusyUs s.guardUs (setTransmit true (environment (setSeq .transmitting s))))))
  have hdelayed := hsent.map (setSeq_ignoresBuffers .lineSwitchDelay)
  simp only [Machine.transmitStep, h.guardUs, hguarded.txFrame, hsent.guardUs]
  exact (hdelayed.map (waitBusyUs_ignoresBuffers _)).map (setTransmit_ignoresBuffers false)

/-- Loading the bytes received writes all of RXB (42_serial_transport.md rule R166). -/
theorem Alike.loadRxb (got : List Byte) : Alike (loadRxb got s) (loadRxb got t) where
  overwritten := by
    obtain ⟨req, txf, rxb, rfl⟩ := h.overwritten
    exact ⟨req, txf, (Machine.loadRxb got s).rxb, rfl⟩
  txFrame := (txFrame_loadRxb got t).trans (h.txFrame.trans (txFrame_loadRxb got s).symm)
  rxFrame := by
    obtain ⟨req, txf, rxb, rfl⟩ := h.overwritten
    exact rxFrame_congr rfl rfl

theorem Alike.readResponse : Alike (readResponse s) (readResponse t) := by
  have hbytes : readBytes Config.readMax t = readBytes Config.readMax s := h.congr (readBytes_withBuffers _)
  simp only [Machine.readResponse, hbytes]
  exact (h.map (serReadBytes_ignoresBuffers Config.readMax)).loadRxb _

theorem Alike.serBufferedCount : serBufferedCount t = serBufferedCount s := h.congr fun _ _ _ _ => rfl

/-- The response read clears RX_LEN and counts its polls anew (rule R166). -/
theorem Alike.startPolls : Alike (clearRx (setPoll 0 s)) (clearRx (setPoll 0 t)) := by
  have htxFrame := h.txFrame
  obtain ⟨req, txf, rxb, rfl⟩ := h.overwritten
  exact ⟨⟨req, txf, rxb, rfl⟩, htxFrame, rfl⟩

theorem Alike.validateStep : AlikeAnswers (validateStep s) (validateStep t) where
  answer := by
    have hfresh : t.fresh = s.fresh := h.congr fun _ _ _ _ => rfl
    simp only [Machine.validateStep, decodeOutcome, h.rxFrame, hfresh]
  state := by
    simp only [Machine.validateStep, h.rxFrame]
    exact (h.map (setSeq_ignoresBuffers _)).map (decodeWrites_ignoresBuffers _)

end

theorem pollLoop_alike (k : Nat) {s t : State} (h : Alike s t) : AlikeAnswers (pollLoop k s) (pollLoop k t) := by
  induction k generalizing s t with
  | zero => exact ⟨rfl, h⟩
  | succ k ih =>
    have hpoll := h.map countPoll_ignoresBuffers
    simp only [pollLoop, h.serBufferedCount]
    split
    · exact ⟨rfl, (hpoll.map environment_ignoresBuffers).readResponse⟩
    · exact ih (hpoll.map (waitYield_ignoresBuffers _))

theorem awaitAndValidate_alike {s t : State} (h : Alike s t) : AlikeAnswers (awaitAndValidate s) (awaitAndValidate t) := by
  have hread : AlikeAnswers (transportReadResponse s) (transportReadResponse t) := pollLoop_alike _ h.startPolls
  simp only [awaitAndValidate, hread.answer]
  split
  · exact hread.state.validateStep
  · exact ⟨rfl, hread.state⟩

theorem attemptOnce_alike {s t : State} (h : Alike s t) : AlikeAnswers (attemptOnce s) (attemptOnce t) :=
  awaitAndValidate_alike ((h.transmitStep.map (setSeq_ignoresBuffers _)).map environment_ignoresBuffers)

/-! ### The transaction (rules R217, R221) -/

theorem transactLoop_alike (k : Nat) {s t : State} (h : Alike s t) : AlikeAnswers (transactLoop k s) (transactLoop k t) := by
  induction k generalizing s t with
  | zero => exact ⟨rfl, h⟩
  | succ k ih =>
    have hattempt := attemptOnce_alike h
    simp only [transactLoop]
    generalize attemptOnce s = r, attemptOnce t = r' at hattempt
    obtain ⟨o, u⟩ := r
    obtain ⟨o', u'⟩ := r'
    obtain ⟨rfl, hu⟩ : o' = o ∧ Alike u u' := ⟨hattempt.answer, hattempt.state⟩
    cases o' with
    | value v =>
      exact ⟨rfl, ((hu.map (setSeq_ignoresBuffers _)).map environment_ignoresBuffers).map (setTransmit_ignoresBuffers _)⟩
    | noResponse => exact ⟨rfl, hu⟩
    | undecodableFunction => exact ⟨rfl, hu⟩
    | unsupportedFunction => exact ⟨rfl, hu⟩
    | checksumError =>
      have hcount : u'.attempt = u.attempt := hu.congr fun _ _ _ _ => rfl
      simp only [hcount]
      split
      · exact ⟨rfl, hu.map (setSeq_ignoresBuffers _)⟩
      · exact ih ((hu.map (setSeq_ignoresBuffers _)).map (setAttempt_ignoresBuffers _))

/-- What an exchange makes of the registers it counts in, before it reads them: ATTEMPT 1, POLL 0, RX_LEN 0. -/
def startCounts (s : State) : State := clearRx (setPoll 0 (setAttempt 1 s))

theorem awaitAndValidate_clearRx_setPoll (s : State) : awaitAndValidate (clearRx (setPoll 0 s)) = awaitAndValidate s := rfl

/-- An attempt starts its counts only after the transmit step, which keeps them. -/
theorem attemptOnce_clearRx_setPoll (s : State) : attemptOnce (clearRx (setPoll 0 s)) = attemptOnce s :=
  awaitAndValidate_clearRx_setPoll (environment (setSeq .awaitingResponse (transmitStep s)))

theorem transactLoop_clearRx_setPoll (k : Nat) (s : State) :
    transactLoop (k + 1) (clearRx (setPoll 0 s)) = transactLoop (k + 1) s := by
  simp only [transactLoop, attemptOnce_clearRx_setPoll]

theorem transactLoop_startCounts (s : State) : transactLoop Config.maxAttempts (startCounts s) = runTransact s :=
  transactLoop_clearRx_setPoll 2 (setAttempt 1 s)

theorem runTransaction_alike {s t : State} (h : Alike (startCounts s) (startCounts t)) :
    Alike (runTransaction s) (runTransaction t) := by
  have hloop := transactLoop_alike Config.maxAttempts h
  rw [transactLoop_startCounts, transactLoop_startCounts] at hloop
  simp only [runTransaction, hloop.answer]
  exact (hloop.state.map (setSeq_ignoresBuffers _)).map (finish_ignoresBuffers _)

/-! ### The registers of a call (rule R304) -/

/-- What a call writes before it reads it. -/
structure CallRegisters where
  attempt : BitVec 2
  poll : BitVec 4
  req : Request
  txf : Vector Byte Config.writeReqLen
  txLen : Nat
  rxb : Vector Byte Config.readMax
  rxLen : Nat
  crcAcc : Half
  guardUs : Word

/-- The state with other contents in the registers of a call. -/
def withCallRegisters (c : CallRegisters) (s : State) : State :=
  { s with
    attempt := c.attempt, poll := c.poll, req := c.req, txf := c.txf, txLen := c.txLen, rxb := c.rxb, rxLen := c.rxLen,
    crcAcc := c.crcAcc, guardUs := c.guardUs }

/-- REQUEST builds its frame and computes checksum and guard time anew (rule R222). -/
theorem prepareRead_alike (unitId : Byte) {function : Byte} (addr : Half) (hread : function = 3 ∨ function = 4)
    (c : CallRegisters) (s : State) : Alike (startCounts (prepareRead unitId function addr s))
      (startCounts (prepareRead unitId function addr (withCallRegisters c s))) where
  overwritten := ⟨_, _, _, rfl⟩
  txFrame := (txFrame_prepareRead unitId function addr (withCallRegisters c s) hread).trans
    (txFrame_prepareRead unitId function addr s hread).symm
  rxFrame := rfl

/-- SET does the same with its frame (rule R225). -/
theorem prepareWrite_alike (unitId : Byte) (addr value : Half) (c : CallRegisters) (s : State) :
    Alike (startCounts (prepareWrite unitId addr value s))
      (startCounts (prepareWrite unitId addr value (withCallRegisters c s))) where
  overwritten := ⟨_, _, _, rfl⟩
  txFrame := (txFrame_prepareWrite unitId addr value (withCallRegisters c s)).trans
    (txFrame_prepareWrite unitId addr value s).symm
  rxFrame := rfl

/-- Every exchange but TRANSACT's own prepares alike whatever the registers of its call held. -/
theorem Exchanging.prepares_alike {i : Instr} {s : State} {frame : List Byte} (h : Exchanging i s frame)
    (hi : i ≠ .transact) : s.busy = false ∧ s.initialised = true ∧ ∃ prepare, Prepares i prepare ∧
      ∀ c u, Alike (startCounts (prepare u)) (startCounts (prepare (withCallRegisters c u))) := by
  obtain ⟨j, -, hexec, hbusy, hready, hkind⟩ := exchanging_command h hi
  obtain ⟨unitId, function, addr, hread, rfl, -⟩ | ⟨unitId, addr, value, rfl, -⟩ := hkind
  · exact ⟨hbusy, hready, _, (prepares_request unitId addr hread).congr hexec, prepareRead_alike unitId addr hread⟩
  · exact ⟨hbusy, hready, _, (prepares_set unitId addr value).congr hexec, prepareWrite_alike unitId addr value⟩

/-- Settles O57: the call prepares alike whatever its registers held, and alike states run alike transactions. -/
theorem earlierRegisterContentsDoNotMatter : Obligations.EarlierRegisterContentsDoNotMatter := by
  intro i s frame attempt poll req txf txLen rxb rxLen crcAcc guardUs h hi
  obtain ⟨hbusy, hready, prepare, hprepares, halike⟩ := h.prepares_alike hi
  have hend := runTransaction_alike (halike ⟨attempt, poll, req, txf, txLen, rxb, rxLen, crcAcc, guardUs⟩ (accept s))
  exact ⟨_, _, hprepares.exec_eq s hbusy hready, hprepares.exec_eq _ hbusy hready, hend.eq, hend.txFrame, hend.rxFrame⟩

end Sys2Proof.Machine
end
